-- ==== Sys2Proof/Word.lean ====
section
/-! DEFINITION. The word types of the block and the closed sets of names its spec uses: register codes, mode
tags, width selects, commands and fault codes. Their bit codes are in Decode.lean and Machine/Ops.lean. -/

namespace Sys2Proof

/-- A memory byte, a bank number, an operand byte. -/
abbrev Byte := BitVec 8

/-- A 16-bit register, an offset, a 16-bit datum (R8). -/
abbrev Word := BitVec 16

/-- A physical address: bank in bits 23..16, offset in bits 15..0 (R10, R46). -/
abbrev Addr := BitVec 24

/-- A command word (R64). -/
abbrev Command := BitVec 64

/-- The register file of R29, one name per `REG` code 0x0..0xB. -/
inductive Reg where
  | a | x | y | s | d | dbr | pbr | pc | e | m | xf | cyc
deriving DecidableEq, Repr

/-- The mode tags of R67, one name per `MODE` code 0x00..0x13, in code order. -/
inductive ModeTag where
  | imp | imm | abs | absJmp | absX | absY | absInd | absXInd
  | dp | dpX | dpY | dpInd | dpIndL | dpXInd | dpIndY | dpIndLY
  | absL | absLX | sr | srIndY
deriving DecidableEq, Repr

/-- The width selects of R69: by flag `M`, by flag `XF`, fixed byte, fixed word. -/
inductive WSel where
  | byM | byX | fixed8 | fixed16
deriving DecidableEq, Repr

/-- A resolved access width `W` (R69): `byte` is W = 1, `word` is W = 2. -/
inductive Width where
  | byte | word
deriving DecidableEq, Repr

/-- The commands of R66; `resolve` carries a mode tag of its own. -/
inductive Cmd where
  | reset | readReg | writeReg | readByte | writeByte | readOperand | writeOperand
  | resolve | loadEa | storeEa | commitPc
deriving DecidableEq, Repr

/-- The values `FAULT.CODE` takes (R212); codes 9..15 are never raised and have no name. -/
inductive FaultCode where
  /-- Code 0: no fault is recorded. -/
  | none
  /-- Code 1: `CMD` is 0x0 or 0xC..0xF (R74). -/
  | invalidCommand
  /-- Code 2: `MODE` is 0x14..0x1F (R73). -/
  | invalidMode
  /-- Code 3: `REG` is 0xC..0xF (R68). -/
  | invalidRegister
  /-- Code 4: a reserved bit, an unused field or an out-of-range data bit is set (R65, R72, R75). -/
  | reservedBitsSet
  /-- Code 5: `XF = 1` and the index register read has a non-zero high byte (R130). -/
  | indexWidthIncoherent
  /-- Code 6: a register that holds no value is read (R35). -/
  | undefinedRegister
  /-- Code 7: the latch kind does not allow the access (R200, R202, R205). -/
  | resultKindMismatch
  /-- Code 8: `WRITE_REG CYC` (R94). -/
  | readOnlyRegister
deriving DecidableEq, Repr

/-- The fault register of R33: `FAULT.CODE` and `FAULT.INFO`. Also what a check that fails asks to be recorded. -/
structure FaultReg where
  code : FaultCode
  info : Byte
deriving DecidableEq, Repr

end Sys2Proof
end

