-- ==== Sys2Proof/Syntax.lean ====
section
/-! DEFINITION. The commands as syntax: one constructor per row of spec/opcode_table.json. -/

namespace Sys2Proof

/-- A decoded command (R66, R67). `RESOLVE` has one constructor per mode tag, and keeps all three operand bytes:
the bytes beyond the mode's `LEN` are accepted and ignored (R70). -/
inductive Instr where
  /-- `RESET` (R232). -/
  | reset
  /-- `READ_REG r` (R93). -/
  | readReg (r : Reg)
  /-- `WRITE_REG r, #v` (R94). -/
  | writeReg (r : Reg) (v : Word)
  /-- `READ_BYTE a` (R110). -/
  | readByte (a : Addr)
  /-- `WRITE_BYTE a, #v` (R111). -/
  | writeByte (a : Addr) (v : Word)
  /-- `READ_OPERAND a, W=ws` (R112). -/
  | readOperand (a : Addr) (ws : WSel)
  /-- `WRITE_OPERAND a, W=ws, #v` (R113). -/
  | writeOperand (a : Addr) (ws : WSel) (v : Word)
  /-- `RESOLVE.IMP` (R176). -/
  | resolveImp (ws : WSel) (op : BitVec 24)
  /-- `RESOLVE.IMM` (R178). -/
  | resolveImm (ws : WSel) (op : BitVec 24)
  /-- `RESOLVE.ABS` (R150). -/
  | resolveAbs (ws : WSel) (op : BitVec 24)
  /-- `RESOLVE.ABS_JMP` (R151). -/
  | resolveAbsJmp (ws : WSel) (op : BitVec 24)
  /-- `RESOLVE.ABS_X` (R152). -/
  | resolveAbsX (ws : WSel) (op : BitVec 24)
  /-- `RESOLVE.ABS_Y` (R153). -/
  | resolveAbsY (ws : WSel) (op : BitVec 24)
  /-- `RESOLVE.ABS_IND` (R154). -/
  | resolveAbsInd (ws : WSel) (op : BitVec 24)
  /-- `RESOLVE.ABS_X_IND` (R155). -/
  | resolveAbsXInd (ws : WSel) (op : BitVec 24)
  /-- `RESOLVE.DP` (R160). -/
  | resolveDp (ws : WSel) (op : BitVec 24)
  /-- `RESOLVE.DP_X` (R161). -/
  | resolveDpX (ws : WSel) (op : BitVec 24)
  /-- `RESOLVE.DP_Y` (R162). -/
  | resolveDpY (ws : WSel) (op : BitVec 24)
  /-- `RESOLVE.DP_IND` (R163). -/
  | resolveDpInd (ws : WSel) (op : BitVec 24)
  /-- `RESOLVE.DP_IND_L` (R164). -/
  | resolveDpIndL (ws : WSel) (op : BitVec 24)
  /-- `RESOLVE.DP_X_IND` (R165). -/
  | resolveDpXInd (ws : WSel) (op : BitVec 24)
  /-- `RESOLVE.DP_IND_Y` (R166). -/
  | resolveDpIndY (ws : WSel) (op : BitVec 24)
  /-- `RESOLVE.DP_IND_L_Y` (R167). -/
  | resolveDpIndLY (ws : WSel) (op : BitVec 24)
  /-- `RESOLVE.ABS_L` (R156). -/
  | resolveAbsL (ws : WSel) (op : BitVec 24)
  /-- `RESOLVE.ABS_L_X` (R157). -/
  | resolveAbsLX (ws : WSel) (op : BitVec 24)
  /-- `RESOLVE.SR` (R172). -/
  | resolveSr (ws : WSel) (op : BitVec 24)
  /-- `RESOLVE.SR_IND_Y` (R173). -/
  | resolveSrIndY (ws : WSel) (op : BitVec 24)
  /-- `LOAD_EA` (R200). -/
  | loadEa
  /-- `STORE_EA #v` (R202). -/
  | storeEa (v : Word)
  /-- `COMMIT_PC` (R205). -/
  | commitPc
deriving DecidableEq, Repr

end Sys2Proof
end

