-- ==== Sys2Proof/Decode.lean ====
section
/-! DEFINITION. The command word (R64 to R77): its fields, its codes, the decoder, total on all 2^64 words and
rejecting by name in the order of R76, and the encoder written from the same tables. -/

namespace Sys2Proof

/-! ### Codes (R66 to R69) -/

/-- The `REG` code of a register (R29, R68). -/
def Reg.code : Reg → BitVec 4
  | .a => 0x0 | .x => 0x1 | .y => 0x2 | .s => 0x3 | .d => 0x4 | .dbr => 0x5
  | .pbr => 0x6 | .pc => 0x7 | .e => 0x8 | .m => 0x9 | .xf => 0xA | .cyc => 0xB

/-- The register of a `REG` code; 0xC..0xF are reserved (R68). -/
def Reg.ofCode (c : BitVec 4) : Option Reg :=
  match c.toNat with
  | 0x0 => some .a | 0x1 => some .x | 0x2 => some .y | 0x3 => some .s
  | 0x4 => some .d | 0x5 => some .dbr | 0x6 => some .pbr | 0x7 => some .pc
  | 0x8 => some .e | 0x9 => some .m | 0xA => some .xf | 0xB => some .cyc
  | _ => none

/-- The `WSEL` code of a width select (R69). -/
def WSel.code : WSel → BitVec 2
  | .byM => 0 | .byX => 1 | .fixed8 => 2 | .fixed16 => 3

/-- The width select of a `WSEL` code: every code has one (R69). -/
def WSel.ofCode (c : BitVec 2) : WSel :=
  match c.toNat with
  | 0 => .byM | 1 => .byX | 2 => .fixed8 | _ => .fixed16

/-- The `MODE` code of a tag (R67). -/
def ModeTag.code : ModeTag → BitVec 5
  | .imp => 0x00
  | .imm => 0x01
  | .abs => 0x02
  | .absJmp => 0x03
  | .absX => 0x04
  | .absY => 0x05
  | .absInd => 0x06
  | .absXInd => 0x07
  | .dp => 0x08
  | .dpX => 0x09
  | .dpY => 0x0A
  | .dpInd => 0x0B
  | .dpIndL => 0x0C
  | .dpXInd => 0x0D
  | .dpIndY => 0x0E
  | .dpIndLY => 0x0F
  | .absL => 0x10
  | .absLX => 0x11
  | .sr => 0x12
  | .srIndY => 0x13

/-- The tag of a `MODE` code; 0x14..0x1F are reserved (R67, R73). -/
def ModeTag.ofCode (c : BitVec 5) : Option ModeTag :=
  match c.toNat with
  | 0x00 => some .imp
  | 0x01 => some .imm
  | 0x02 => some .abs
  | 0x03 => some .absJmp
  | 0x04 => some .absX
  | 0x05 => some .absY
  | 0x06 => some .absInd
  | 0x07 => some .absXInd
  | 0x08 => some .dp
  | 0x09 => some .dpX
  | 0x0A => some .dpY
  | 0x0B => some .dpInd
  | 0x0C => some .dpIndL
  | 0x0D => some .dpXInd
  | 0x0E => some .dpIndY
  | 0x0F => some .dpIndLY
  | 0x10 => some .absL
  | 0x11 => some .absLX
  | 0x12 => some .sr
  | 0x13 => some .srIndY
  | _ => none

/-- The `CMD` code of a command (R66). -/
def Cmd.code : Cmd → BitVec 4
  | .reset => 0x1 | .readReg => 0x2 | .writeReg => 0x3 | .readByte => 0x4
  | .writeByte => 0x5 | .readOperand => 0x6 | .writeOperand => 0x7 | .resolve => 0x8
  | .loadEa => 0x9 | .storeEa => 0xA | .commitPc => 0xB

/-- The command of a `CMD` code; 0x0 and 0xC..0xF are reserved (R66, R74). -/
def Cmd.ofCode (c : BitVec 4) : Option Cmd :=
  match c.toNat with
  | 0x1 => some .reset | 0x2 => some .readReg | 0x3 => some .writeReg
  | 0x4 => some .readByte | 0x5 => some .writeByte | 0x6 => some .readOperand
  | 0x7 => some .writeOperand | 0x8 => some .resolve | 0x9 => some .loadEa
  | 0xA => some .storeEa | 0xB => some .commitPc
  | _ => none

/-! ### Fields (R64) -/

/-- `CMD`, word bits 3..0. -/
def cmdField (w : Command) : BitVec 4 := w.extractLsb' 0 4

/-- `MODE`, word bits 8..4. -/
def modeField (w : Command) : BitVec 5 := w.extractLsb' 4 5

/-- `WSEL`, word bits 10..9. -/
def wselField (w : Command) : BitVec 2 := w.extractLsb' 9 2

/-- `REG`, word bits 14..11. -/
def regField (w : Command) : BitVec 4 := w.extractLsb' 11 4

/-- `OP` or `ADDR`, word bits 39..16 (R70, R71). -/
def opField (w : Command) : BitVec 24 := w.extractLsb' 16 24

/-- `DATA`, word bits 55..40 (R72). -/
def dataField (w : Command) : BitVec 16 := w.extractLsb' 40 16

/-- A command word from its fields at their places in R64; bit 15 and bits 63..56 are zero. -/
def packWord (cmd : BitVec 4) (mode : BitVec 5) (wsel : BitVec 2) (reg : BitVec 4)
    (op : BitVec 24) (data : BitVec 16) : Command :=
  cmd.setWidth 64 ||| mode.setWidth 64 <<< 4 ||| wsel.setWidth 64 <<< 9 ||| reg.setWidth 64 <<< 11
    ||| op.setWidth 64 <<< 16 ||| data.setWidth 64 <<< 40

/-! ### Which fields a command uses (R65) -/

/-- Does the command use `MODE`? -/
def Cmd.usesMode : Cmd → Bool
  | .resolve => true
  | .reset | .readReg | .writeReg | .readByte | .writeByte | .readOperand
  | .writeOperand | .loadEa | .storeEa | .commitPc => false

/-- Does the command use `WSEL`? -/
def Cmd.usesWsel : Cmd → Bool
  | .readOperand | .writeOperand | .resolve => true
  | .reset | .readReg | .writeReg | .readByte | .writeByte
  | .loadEa | .storeEa | .commitPc => false

/-- Does the command use `REG`? -/
def Cmd.usesReg : Cmd → Bool
  | .readReg | .writeReg => true
  | .reset | .readByte | .writeByte | .readOperand | .writeOperand
  | .resolve | .loadEa | .storeEa | .commitPc => false

/-- Does the command use `OP`/`ADDR`? -/
def Cmd.usesOp : Cmd → Bool
  | .readByte | .writeByte | .readOperand | .writeOperand | .resolve => true
  | .reset | .readReg | .writeReg | .loadEa
  | .storeEa | .commitPc => false

/-- Does the command use `DATA`? -/
def Cmd.usesData : Cmd → Bool
  | .writeReg | .writeByte | .writeOperand | .storeEa => true
  | .reset | .readReg | .readByte | .readOperand
  | .resolve | .loadEa | .commitPc => false

/-- The word bits that are never used: bit 15 and bits 63..56 (R64). -/
def reservedBits : Command := 0xFF00000000008000

/-- The word bits that must be zero in a word of command `c`: the reserved bits and every field `c` does not use
(R65, R75). -/
def Cmd.mustBeZero (c : Cmd) : Command :=
  let field (used : Bool) (n : Nat) : BitVec n := if used then 0#n else BitVec.allOnes n
  reservedBits
    ||| packWord 0 (field c.usesMode 5) (field c.usesWsel 2) (field c.usesReg 4) (field c.usesOp 24)
      (field c.usesData 16)

/-- The first index from `i` on, among `n`, at which `p` holds; `i + n` if there is none. -/
def firstIndexFrom (p : Nat → Bool) : Nat → Nat → Nat
  | i, 0 => i
  | i, n + 1 => if p i then i else firstIndexFrom p (i + 1) n

/-- The index of the lowest set bit of `v` (the width of `v` if none is set). -/
def lowestSetBit {n : Nat} (v : BitVec n) : Nat := firstIndexFrom v.getLsbD 0 n

/-! ### The decoder (R76) -/

/-- The `RESOLVE` instruction of a tag (R67). -/
def resolveInstr (t : ModeTag) (ws : WSel) (op : BitVec 24) : Instr :=
  match t with
  | .imp => .resolveImp ws op
  | .imm => .resolveImm ws op
  | .abs => .resolveAbs ws op
  | .absJmp => .resolveAbsJmp ws op
  | .absX => .resolveAbsX ws op
  | .absY => .resolveAbsY ws op
  | .absInd => .resolveAbsInd ws op
  | .absXInd => .resolveAbsXInd ws op
  | .dp => .resolveDp ws op
  | .dpX => .resolveDpX ws op
  | .dpY => .resolveDpY ws op
  | .dpInd => .resolveDpInd ws op
  | .dpIndL => .resolveDpIndL ws op
  | .dpXInd => .resolveDpXInd ws op
  | .dpIndY => .resolveDpIndY ws op
  | .dpIndLY => .resolveDpIndLY ws op
  | .absL => .resolveAbsL ws op
  | .absLX => .resolveAbsLX ws op
  | .sr => .resolveSr ws op
  | .srIndY => .resolveSrIndY ws op

/-- Check (3) of R76: reserved or unused bits set raise `ReservedBitsSet` with the index of the lowest one (R75). -/
def checkUnused (c : Cmd) (w : Command) (i : Instr) : Except FaultReg Instr :=
  if w &&& c.mustBeZero = 0 then .ok i
  else .error ⟨.reservedBitsSet, BitVec.ofNat 8 (lowestSetBit (w &&& c.mustBeZero))⟩

/-- Checks (2) and (3) of R76 for a word whose `CMD` is that of `c`. -/
def decodeAs (c : Cmd) (w : Command) : Except FaultReg Instr :=
  match c with
  | .reset => checkUnused c w .reset
  | .readReg =>
    match Reg.ofCode (regField w) with
    | none => .error ⟨.invalidRegister, (regField w).setWidth 8⟩
    | some r => checkUnused c w (.readReg r)
  | .writeReg =>
    match Reg.ofCode (regField w) with
    | none => .error ⟨.invalidRegister, (regField w).setWidth 8⟩
    | some r => checkUnused c w (.writeReg r (dataField w))
  | .readByte => checkUnused c w (.readByte (opField w))
  | .writeByte => checkUnused c w (.writeByte (opField w) (dataField w))
  | .readOperand => checkUnused c w (.readOperand (opField w) (WSel.ofCode (wselField w)))
  | .writeOperand =>
    checkUnused c w (.writeOperand (opField w) (WSel.ofCode (wselField w)) (dataField w))
  | .resolve =>
    match ModeTag.ofCode (modeField w) with
    | none => .error ⟨.invalidMode, (modeField w).setWidth 8⟩
    | some t => checkUnused c w (resolveInstr t (WSel.ofCode (wselField w)) (opField w))
  | .loadEa => checkUnused c w .loadEa
  | .storeEa => checkUnused c w (.storeEa (dataField w))
  | .commitPc => checkUnused c w .commitPc

/-- The decoder: total on all command words, and the first failing check of R76 is reported. -/
def decode (w : Command) : Except FaultReg Instr :=
  match Cmd.ofCode (cmdField w) with
  | none => .error ⟨.invalidCommand, (cmdField w).setWidth 8⟩
  | some c => decodeAs c w

/-! ### The encoder -/

/-- The word of a `RESOLVE` command (R137). -/
def encodeResolve (t : ModeTag) (ws : WSel) (op : BitVec 24) : Command :=
  packWord Cmd.resolve.code t.code ws.code 0 op 0

/-- The command word of an instruction (R64 to R72). -/
def encode : Instr → Command
  | .reset => packWord Cmd.reset.code 0 0 0 0 0
  | .readReg r => packWord Cmd.readReg.code 0 0 r.code 0 0
  | .writeReg r v => packWord Cmd.writeReg.code 0 0 r.code 0 v
  | .readByte a => packWord Cmd.readByte.code 0 0 0 a 0
  | .writeByte a v => packWord Cmd.writeByte.code 0 0 0 a v
  | .readOperand a ws => packWord Cmd.readOperand.code 0 ws.code 0 a 0
  | .writeOperand a ws v => packWord Cmd.writeOperand.code 0 ws.code 0 a v
  | .resolveImp ws op => encodeResolve .imp ws op
  | .resolveImm ws op => encodeResolve .imm ws op
  | .resolveAbs ws op => encodeResolve .abs ws op
  | .resolveAbsJmp ws op => encodeResolve .absJmp ws op
  | .resolveAbsX ws op => encodeResolve .absX ws op
  | .resolveAbsY ws op => encodeResolve .absY ws op
  | .resolveAbsInd ws op => encodeResolve .absInd ws op
  | .resolveAbsXInd ws op => encodeResolve .absXInd ws op
  | .resolveDp ws op => encodeResolve .dp ws op
  | .resolveDpX ws op => encodeResolve .dpX ws op
  | .resolveDpY ws op => encodeResolve .dpY ws op
  | .resolveDpInd ws op => encodeResolve .dpInd ws op
  | .resolveDpIndL ws op => encodeResolve .dpIndL ws op
  | .resolveDpXInd ws op => encodeResolve .dpXInd ws op
  | .resolveDpIndY ws op => encodeResolve .dpIndY ws op
  | .resolveDpIndLY ws op => encodeResolve .dpIndLY ws op
  | .resolveAbsL ws op => encodeResolve .absL ws op
  | .resolveAbsLX ws op => encodeResolve .absLX ws op
  | .resolveSr ws op => encodeResolve .sr ws op
  | .resolveSrIndY ws op => encodeResolve .srIndY ws op
  | .loadEa => packWord Cmd.loadEa.code 0 0 0 0 0
  | .storeEa v => packWord Cmd.storeEa.code 0 0 0 0 v
  | .commitPc => packWord Cmd.commitPc.code 0 0 0 0 0

/-- The instruction the decoder reads from the low `nbits` bits of `w`, bit 0 the least significant as in
spec/opcode_table.json and R64; `none` where it rejects the word. -/
def decodeTableWord (nbits w : Nat) : Option Instr :=
  match decode (BitVec.ofNat 64 (w % 2 ^ nbits)) with
  | .ok i => some i
  | .error _ => none

end Sys2Proof
end

