-- ==== Sys2Proof/Config.lean ====
section
/-! DEFINITION. The parameters the spec leaves open (R9), which a model takes as arguments. They are plain data
that `State.params` carries and no command changes (log entry 2). -/

namespace Sys2Proof

/-- `P_DP_BANK` (R131): the bank of direct-page accesses. -/
inductive DpBank where
  | dbr | zero
deriving DecidableEq, Repr

/-- `P_EMU_WRAP` (R132): when the direct-page modes page-wrap in emulation mode. -/
inductive EmuWrap where
  | always | dlZero
deriving DecidableEq, Repr

/-- One row of `P_BASE_CYCLES`: the cost for width 1 and for width 2, each at most 0xFFFE (R187). -/
structure BaseCost where
  one : Fin 0xFFFF
  two : Fin 0xFFFF
deriving DecidableEq, Repr, Inhabited

/-- `P_BASE_CYCLES` (R187): one row per mode tag, in `MODE` code order. -/
abbrev CycleTable := Vector BaseCost 20

/-- The parameters of R9 other than the memory image `M0`. -/
structure Params where
  dpBank : DpBank
  emuWrap : EmuWrap
  baseCycles : CycleTable
deriving DecidableEq, Repr

/-- The open cost table of the machine `State.reset` describes: the spec gives no number of it (R187, R190), so
it has no body and no proof can see a value of it (log entry 3). -/
opaque Config.baseCycles : CycleTable

/-- The spec's defaults: direct bank `DBR`, page wrap whenever `E = 1` (R9, R131, R132). -/
def Config.defaults : Params :=
  { dpBank := .dbr, emuWrap := .always, baseCycles := Config.baseCycles }

end Sys2Proof
end

