-- ==== Sys2Proof/Machine/State.lean ====
section
/-! DEFINITION. The state of the block (R16), the reasons a step could stop, and the state at power-on (R231). -/

namespace Sys2Proof.Machine

/-- The memory as a list of cells: addresses strictly rising, every address below 2^24, and no cell holding
what an unlisted address reads as (log entry 4). `Memory.wf` says so. -/
abbrev Memory := List Host.Cell

/-- The result kinds of R32; codes 5..7 never occur. -/
inductive ResultKind where
  /-- Code 0: no result since reset or since the last `COMMIT_PC`. -/
  | invalid
  /-- Code 1: implicit mode, no address and no value. -/
  | none
  /-- Code 2: an immediate value in `L.IMM`. -/
  | imm
  /-- Code 3: a data address in `L.EA`, `L.EA2`. -/
  | data
  /-- Code 4: a control-transfer target in `L.EA`. -/
  | jump
deriving DecidableEq, Repr

/-- The result latch `L` (R31). -/
structure Latch where
  kind : ResultKind
  tag : ModeTag
  w : BitVec 2
  ea : Addr
  ea2 : Addr
  imm : Word
  len : BitVec 2
  pn : BitVec 2
  pa : Addr
  pv : Addr
  cross : Bool
  cost : BitVec 16
deriving DecidableEq, Repr

/-- The latch with no result: `L.KIND = INVALID`, every other field 0 (R31), as `RESET` and `COMMIT_PC` leave it.
`L.TAG` 0 is the code of `IMP` (log entry 9). -/
def Latch.invalid : Latch :=
  { kind := .invalid, tag := .imp, w := 0, ea := 0, ea2 := 0, imm := 0, len := 0, pn := 0, pa := 0, pv := 0,
    cross := false, cost := 0 }

/-- The state of R16. `none` in `regA`, `regX`, `regY`, `regS` and `pc` is the spec's clear definedness mark: the
register holds no value (R35, log entry 5). -/
structure State where
  regA : Option Word
  regX : Option Word
  regY : Option Word
  regS : Option Word
  pc : Option Word
  regD : Word
  dbr : Byte
  pbr : Byte
  flagE : Bool
  flagM : Bool
  flagXF : Bool
  cyc : BitVec 64
  mem : Memory
  latch : Latch
  fault : FaultReg
  resp : BitVec 64
  /-- The parameters of R9; no command changes them (log entry 2). -/
  params : Params
  /-- The command words issued and not yet executed, oldest first (log entry 1). -/
  commands : List Command
deriving DecidableEq, Repr

/-- The reasons a step stops with a fault: there are none. The spec describes what each of its faults does to the
state (R214), so a meaning takes it as a next state; nothing raises a member of this type, which is safe
(log entry 6). -/
inductive Fault
deriving DecidableEq, Repr

/-- The reasons a step is refused. -/
inductive Refusal where
  /-- Raised only by an arm of `exec` for an instruction that has no meaning yet; safe. No arm raises it. -/
  | notModelled (mnemonic : String)
deriving DecidableEq, Repr

/-- The state at power-on with parameters `p` and memory image `image` (R9, R49, R231): every other piece of state
holds the value `RESET` gives it (R232). -/
def State.powerOn (p : Params) (image : Memory) : State :=
  { regA := none, regX := none, regY := none, regS := none, pc := none,
    regD := 0x0000, dbr := 0x00, pbr := 0x00, flagE := true, flagM := true, flagXF := true, cyc := 0,
    mem := image, latch := Latch.invalid, fault := ⟨.none, 0⟩, resp := 0, params := p, commands := [] }

/-- The state at power-on with the spec's default parameters and a memory in which nothing is listed
(log entries 2, 3 and 4). -/
def State.reset : State := State.powerOn Config.defaults []

end Sys2Proof.Machine
end

