-- ==== Sys2Proof/WellFormed.lean ====
section
/-! DEFINITION. The static operand checks on a command: what R65, R72 and R94 ask of its data whatever the state.
A command that fails one still decodes; executing it records the fault the spec names. -/

namespace Sys2Proof

/-- The width in bits of a register of the file (R29). -/
def Reg.bits : Reg → Nat
  | .a | .x | .y | .s | .d | .pc => 16
  | .dbr | .pbr => 8
  | .e | .m | .xf => 1
  | .cyc => 64

/-- No bit of `v` at index `n` or above is set. -/
def fitsIn (v : Word) (n : Nat) : Bool := v.toNat < 2 ^ n

/-- `WRITE_REG` names a writable register (R29) and its data fits the register (R72); the data of `WRITE_BYTE`,
and of `WRITE_OPERAND` with the fixed byte width, fits in a byte (R65). The remaining range checks depend on a flag
or on the latch and are made when the command executes. -/
def Instr.wellFormed : Instr → Bool
  | .writeReg r v => r != .cyc && fitsIn v r.bits
  | .writeByte _ v => fitsIn v 8
  | .writeOperand _ .fixed8 v => fitsIn v 8
  | .writeOperand _ .byM _ | .writeOperand _ .byX _ | .writeOperand _ .fixed16 _ => true
  | .reset | .readReg _ | .readByte _ | .readOperand _ _ | .loadEa | .storeEa _ | .commitPc => true
  | .resolveImp _ _ | .resolveImm _ _ | .resolveAbs _ _ | .resolveAbsJmp _ _
  | .resolveAbsX _ _ | .resolveAbsY _ _ | .resolveAbsInd _ _ | .resolveAbsXInd _ _
  | .resolveDp _ _ | .resolveDpX _ _ | .resolveDpY _ _ | .resolveDpInd _ _
  | .resolveDpIndL _ _ | .resolveDpXInd _ _ | .resolveDpIndY _ _ | .resolveDpIndLY _ _
  | .resolveAbsL _ _ | .resolveAbsLX _ _ | .resolveSr _ _ | .resolveSrIndY _ _ => true

end Sys2Proof
end

