-- ==== Sys2Proof/Machine/Ops.lean ====
section
/-! DEFINITION. The named operations: address arithmetic (R125 to R127), memory (R46 to R53), the register file's
reads (R93, R35), recording a fault and leaving it (R214, R215, R232), and taking a command (R64). -/

namespace Sys2Proof.Machine

/-! ### Addresses (R10, R125 to R127) -/

/-- `bank(a)`, address bits 23..16. -/
def bankOf (a : Addr) : Byte := a.extractLsb' 16 8

/-- `off(a)`, address bits 15..0. -/
def offOf (a : Addr) : Word := a.extractLsb' 0 16

/-- `A24(b, o)`. -/
def a24 (b : Byte) (o : Word) : Addr := b ++ o

/-- Bank-carry addition (R125): the offset addition may overflow into the bank, which wraps modulo 256. -/
def bankCarry (a : Addr) (n : Nat) : Addr :=
  let s := (offOf a).toNat + n
  a24 (BitVec.ofNat 8 ((bankOf a).toNat + s / 0x10000)) (BitVec.ofNat 16 s)

/-- Bank-fixed addition (R126): the offset wraps modulo 0x10000, the bank never changes. -/
def bankFixed (a : Addr) (n : Nat) : Addr := a24 (bankOf a) (BitVec.ofNat 16 ((offOf a).toNat + n))

/-- Page-fixed addition (R127): only the low byte of the offset changes, modulo 0x100. -/
def pageFixed (a : Addr) (n : Nat) : Addr :=
  let o := offOf a
  a24 (bankOf a) (o.extractLsb' 8 8 ++ BitVec.ofNat 8 ((o.extractLsb' 0 8).toNat + n))

/-! ### Memory (R49 to R51) -/

/-- What a byte that no cell lists reads as (log entry 4). -/
def blankByte : Byte := 0

/-- The byte at address `a`. -/
def readAt : Memory → Nat → Byte
  | [], _ => blankByte
  | (k, b) :: rest, a => if k = a then b else readAt rest a

/-- A cell in front of a memory, left out if it holds what an unlisted address reads as. -/
def consCell (a : Nat) (v : Byte) (m : Memory) : Memory := if v = blankByte then m else (a, v) :: m

/-- The memory with byte `v` at address `a`; the canonical form is kept. -/
def writeAt : Memory → Nat → Byte → Memory
  | [], a, v => consCell a v []
  | (k, b) :: rest, a, v =>
    if a < k then consCell a v ((k, b) :: rest)
    else if a = k then consCell a v rest
    else (k, b) :: writeAt rest a v

/-- The cells are at strictly rising addresses from `lo` up and below 2^24, and none is blank. -/
def Memory.wfFrom : Nat → Memory → Bool
  | _, [] => true
  | lo, (k, b) :: rest =>
    decide (lo ≤ k) && decide (k < 2 ^ 24) && decide (b ≠ blankByte) && Memory.wfFrom (k + 1) rest

/-- The canonical form of memory. -/
def Memory.wf (m : Memory) : Bool := Memory.wfFrom 0 m

/-- `MemRead(a, 1)` (R50). -/
def memRead (s : State) (a : Addr) : Byte := readAt s.mem a.toNat

/-- `MemWrite(a, 1, v)` (R51). -/
def memWrite (s : State) (a : Addr) (v : Byte) : State := { s with mem := writeAt s.mem a.toNat v }

/-- A 2-byte value, low byte at `lo`, high byte at `hi` (R52, R53). -/
def memRead2 (s : State) (lo hi : Addr) : Word := memRead s hi ++ memRead s lo

/-- A 3-byte value (R53). -/
def memRead3 (s : State) (lo mid hi : Addr) : Addr := memRead s hi ++ memRead s mid ++ memRead s lo

/-! ### State updates shared by the commands -/

/-- `RESP <- v` (R34). -/
def State.respond (s : State) (v : BitVec 64) : State := { s with resp := v }

/-- `raise F(info)` (R214): the fault register records it and nothing else changes. -/
def State.raise (s : State) (f : FaultReg) : State := { s with fault := f }

/-- No fault is recorded, so commands execute (R215). -/
abbrev State.Running (s : State) : Prop := s.fault.code = .none

/-- `RESET` (R232), the only way out of a recorded fault: everything but memory, and the model's own parameters and
pending commands, takes its reset value. -/
def State.applyReset (s : State) : State :=
  { State.powerOn s.params s.mem with commands := s.commands }

/-- `L` replaced (R137). -/
def State.setLatch (s : State) (l : Latch) : State := { s with latch := l }

/-- `CYC <- (CYC + n) mod 2^64` (R188). -/
def State.charge (s : State) (n : BitVec 16) : State := { s with cyc := s.cyc + n.setWidth 64 }

/-- `x[PC] <- v`, and `PC` holds a value from then on (R205, R35). -/
def State.setPc (s : State) (v : Word) : State := { s with pc := some v }

/-- The bits of `L.KIND` (R32). -/
def ResultKind.code : ResultKind → BitVec 3
  | .invalid => 0 | .none => 1 | .imm => 2 | .data => 3 | .jump => 4

/-- The bits of `FAULT.CODE` (R212). -/
def faultCodeBits : FaultCode → BitVec 4
  | .none => 0 | .invalidCommand => 1 | .invalidMode => 2 | .invalidRegister => 3 | .reservedBitsSet => 4
  | .indexWidthIncoherent => 5 | .undefinedRegister => 6 | .resultKindMismatch => 7 | .readOnlyRegister => 8

/-! ### Faults the commands raise (R212) -/

/-- `UndefinedRegister(r)`. -/
def undefinedRegister (r : Reg) : FaultReg := ⟨.undefinedRegister, r.code.setWidth 8⟩

/-- `IndexWidthIncoherent(r)`. -/
def indexWidthIncoherent (r : Reg) : FaultReg := ⟨.indexWidthIncoherent, r.code.setWidth 8⟩

/-- `ReadOnlyRegister(r)`. -/
def readOnlyRegister (r : Reg) : FaultReg := ⟨.readOnlyRegister, r.code.setWidth 8⟩

/-- `ResultKindMismatch(k)`. -/
def resultKindMismatch (k : ResultKind) : FaultReg := ⟨.resultKindMismatch, k.code.setWidth 8⟩

/-- `ReservedBitsSet` for data `v` of which only the low `n` bits may be set (R72, R94, R111, R113, R202): the index in
the command word of the lowest set bit of `v[15:n]`, `DATA` being at word bits 55..40. -/
def dataRangeFault (v : Word) (n : Nat) : FaultReg :=
  ⟨.reservedBitsSet, BitVec.ofNat 8 (40 + n + lowestSetBit (v >>> n))⟩

/-! ### Reading the register file (R11, R93) -/

/-- `x[r]` of a register that carries a definedness mark (R35). -/
def definedValue (r : Reg) (v : Option Word) : Except FaultReg Word :=
  match v with
  | none => .error (undefinedRegister r)
  | some v => .ok v

/-- `zext_64` of a register read, or its fault. -/
def zext64 {n : Nat} (v : Except FaultReg (BitVec n)) : Except FaultReg (BitVec 64) :=
  match v with
  | .error f => .error f
  | .ok v => .ok (v.setWidth 64)

/-- `zext_64(x[r])` for every register of R29. -/
def readReg (s : State) : Reg → Except FaultReg (BitVec 64)
  | .a => zext64 (definedValue .a s.regA)
  | .x => zext64 (definedValue .x s.regX)
  | .y => zext64 (definedValue .y s.regY)
  | .s => zext64 (definedValue .s s.regS)
  | .d => .ok (s.regD.setWidth 64)
  | .dbr => .ok (s.dbr.setWidth 64)
  | .pbr => .ok (s.pbr.setWidth 64)
  | .pc => zext64 (definedValue .pc s.pc)
  | .e => .ok ((BitVec.ofBool s.flagE).setWidth 64)
  | .m => .ok ((BitVec.ofBool s.flagM).setWidth 64)
  | .xf => .ok ((BitVec.ofBool s.flagXF).setWidth 64)
  | .cyc => .ok s.cyc

/-! ### Executing a command -/

/-- The outcome of a command or a step. -/
abbrev Result := Host.Outcome State Fault Refusal

/-- A command executes only while no fault is recorded; otherwise it leaves the whole state unchanged (R215). -/
def whenRunning (s : State) (r : Result) : Result := if s.Running then r else .next s

/-- The outcome of a command word the decoder rejects: its fault is recorded, unless one already is (R76, R215). -/
def rejectWord (f : FaultReg) (s : State) : Result := whenRunning s (.next (s.raise f))

/-- The oldest pending command word, and the state without it (R64, log entry 1). -/
def nextCommand (s : State) : Option (Command × State) :=
  match s.commands with
  | [] => none
  | w :: rest => some (w, { s with commands := rest })

/-- `s` with one more command word pending, ahead of the others (log entry 1). -/
def pendFirst (s : State) (w : Command) : State := { s with commands := w :: s.commands }

end Sys2Proof.Machine
end

