-- ==== Sys2Proof/Machine/Operands.lean ====
section
/-! DEFINITION. Operand forms: the width select (R69), the operand bytes (R70), the register-bank multiplexer
(R130 to R132), the direct-page helpers (R133), the pointer fetches (R136), and the `RESOLVE` frame that runs one mode
rule (R137). -/

namespace Sys2Proof.Machine

/-! ### Widths (R69) -/

/-- The bits of `L.W`. -/
def widthBits : Width → BitVec 2
  | .byte => 1
  | .word => 2

/-- The width a flag selects: 1 is 8 bits (R22, R23). -/
def widthOfFlag (f : Bool) : Width := if f then .byte else .word

/-- `W`, the resolved width of a width select, read when the command executes (R69). -/
def widthOf (s : State) : WSel → Width
  | .byM => widthOfFlag s.flagM
  | .byX => widthOfFlag s.flagXF
  | .fixed8 => .byte
  | .fixed16 => .word

/-! ### Operand bytes (R70) -/

/-- `op8 = op0`. -/
def op8 (op : BitVec 24) : Byte := op.extractLsb' 0 8

/-- `op16 = {op1, op0}`. -/
def op16 (op : BitVec 24) : Word := op.extractLsb' 8 8 ++ op.extractLsb' 0 8

/-- `op24 = {op2, op1, op0}`. -/
def op24 (op : BitVec 24) : Addr := op.extractLsb' 16 8 ++ op.extractLsb' 8 8 ++ op.extractLsb' 0 8

/-! ### Register-bank multiplexer (R130 to R132) -/

/-- `idx(r)` (R130): the definedness check, then the coherence check, then the value at the index width. -/
def indexValue (s : State) (r : Reg) (v : Option Word) : Except FaultReg Word :=
  match v with
  | none => .error (undefinedRegister r)
  | some v =>
    if s.flagXF then
      if v.extractLsb' 8 8 ≠ 0 then .error (indexWidthIncoherent r)
      else .ok ((v.extractLsb' 0 8).setWidth 16)
    else .ok v

/-- `idx(X)`. -/
def indexX (s : State) : Except FaultReg Word := indexValue s .x s.regX

/-- `idx(Y)`. -/
def indexY (s : State) : Except FaultReg Word := indexValue s .y s.regY

/-- `DB`, the direct bank (R131). -/
def directBank (s : State) : Byte :=
  match s.params.dpBank with
  | .dbr => s.dbr
  | .zero => 0

/-- `WRAP`, the page-wrap condition (R132). -/
def pageWraps (s : State) : Bool :=
  match s.params.emuWrap with
  | .always => s.flagE
  | .dlZero => s.flagE && s.regD.extractLsb' 0 8 == 0

/-! ### Direct-page helpers (R133) -/

/-- `A24(DB, x[D])`. -/
def directBase (s : State) : Addr := a24 (directBank s) s.regD

/-- `dpaddr(n)`. -/
def dpAddr (s : State) (n : Nat) : Addr :=
  if pageWraps s then pageFixed (directBase s) n else bankFixed (directBase s) n

/-- `dpnext(a)`. -/
def dpNext (s : State) (a : Addr) : Addr := if pageWraps s then pageFixed a 1 else bankFixed a 1

/-- `dplong(n)`. -/
def dpLong (s : State) (n : Nat) : Addr := bankFixed (directBase s) n

/-- `dpcross(a)`: the direct-page address lies in another page than `D`. -/
def dpCross (s : State) (a : Addr) : Bool := (offOf a).extractLsb' 8 8 != s.regD.extractLsb' 8 8

/-- An index added to an offset leaves the bank (R186). -/
def indexCarries (o i : Word) : Bool := decide (0x10000 ≤ o.toNat + i.toNat)

/-! ### Pointer fetches (R136) -/

/-- `FETCH2(pa, BF(., 1))`. -/
def fetch2Fixed (s : State) (pa : Addr) : Word := memRead2 s pa (bankFixed pa 1)

/-- `FETCH2(pa, dpnext)`. -/
def fetch2Direct (s : State) (pa : Addr) : Word := memRead2 s pa (dpNext s pa)

/-- `FETCH3(pa)`. -/
def fetch3 (s : State) (pa : Addr) : Addr := memRead3 s pa (bankFixed pa 1) (bankFixed pa 2)

/-! ### RESOLVE (R137) -/

/-- What a mode rule returns; a field it does not name is 0. -/
structure ModeResult where
  kind : ResultKind
  ea : Addr := 0
  ea2 : Addr := 0
  imm : Word := 0
  len : BitVec 2
  pn : BitVec 2 := 0
  pa : Addr := 0
  pv : Addr := 0
  cross : Bool
deriving DecidableEq, Repr

/-- Every mode tag has a row of the cost table. -/
theorem modeTag_code_lt (t : ModeTag) : t.code.toNat < 20 := by cases t <;> decide

/-- `P_BASE_CYCLES(t, W)` (R187), at most 0xFFFE. -/
def baseCycles (p : Params) (t : ModeTag) (w : Width) : Nat :=
  let row := p.baseCycles[t.code.toNat]'(modeTag_code_lt t)
  match w with
  | .byte => row.one.val
  | .word => row.two.val

/-- `cost(t, W, cross)` (R187): one extra cycle if a boundary is crossed. -/
def cost (p : Params) (t : ModeTag) (w : Width) (cross : Bool) : BitVec 16 :=
  BitVec.ofNat 16 (baseCycles p t w + if cross then 1 else 0)

/-- The latch of a completed `RESOLVE` (R137). -/
def latchOf (p : Params) (t : ModeTag) (w : Width) (r : ModeResult) : Latch :=
  { kind := r.kind, tag := t, w := widthBits w, ea := r.ea, ea2 := r.ea2, imm := r.imm, len := r.len,
    pn := r.pn, pa := r.pa, pv := r.pv, cross := r.cross, cost := cost p t w r.cross }

/-- The state after a mode rule returned `r`: the latch is replaced, the counter charged, `RESP` cleared (R137). -/
def completeResolve (s : State) (t : ModeTag) (w : Width) (r : ModeResult) : State :=
  let l := latchOf s.params t w r
  ((s.setLatch l).charge l.cost).respond 0

/-- A mode rule: a function of the state, the width and the operand bytes that returns fields or raises (R137). -/
abbrev ModeRule := State → Width → BitVec 24 → Except FaultReg ModeResult

/-- `RESOLVE` with the mode rule `rule` of tag `t` (R137). A fault leaves `L`, `CYC` and `RESP` as they were (R214). -/
def resolveWith (t : ModeTag) (rule : ModeRule) (ws : WSel) (op : BitVec 24) (s : State) : Result :=
  whenRunning s
    (match rule s (widthOf s ws) op with
    | .error f => .next (s.raise f)
    | .ok r => .next (completeResolve s t (widthOf s ws) r))

end Sys2Proof.Machine
end

