-- ==== Sys2Proof/Machine/Absolute.lean ====
section
/-! DEFINITION. `RESOLVE` of the absolute and absolute-long modes (R150 to R157). -/

namespace Sys2Proof.Machine

/-- Absolute data indexed by `index` (R152, R153): the index addition may carry into the bank. -/
def absIndexed (index : State → Except FaultReg Word) : ModeRule := fun s _ op =>
  match index s with
  | .error f => .error f
  | .ok i =>
    let ea := bankCarry (a24 s.dbr (op16 op)) i.toNat
    .ok { kind := .data, ea := ea, ea2 := bankCarry ea 1, len := 2, cross := indexCarries (op16 op) i }

/-- A jump through the 2-byte pointer at `pa`, whose pair stays in its bank; the target is in bank `PBR`
(R154, R155). -/
def jumpThrough (s : State) (pa : Addr) : ModeResult :=
  let ptr := fetch2Fixed s pa
  let ea := a24 s.pbr ptr
  { kind := .jump, ea := ea, ea2 := bankFixed ea 1, len := 2, pn := 2, pa := pa, pv := ptr.setWidth 24,
    cross := false }

/-- `ABS` (R150). -/
def modeAbs : ModeRule := fun s _ op =>
  let ea := bankCarry (a24 s.dbr (op16 op)) 0
  .ok { kind := .data, ea := ea, ea2 := bankCarry ea 1, len := 2, cross := false }

/-- `ABS_JMP` (R151). -/
def modeAbsJmp : ModeRule := fun s _ op =>
  let ea := a24 s.pbr (op16 op)
  .ok { kind := .jump, ea := ea, ea2 := bankFixed ea 1, len := 2, cross := false }

/-- `ABS_IND` (R154): the pointer is in bank 0x00. -/
def modeAbsInd : ModeRule := fun s _ op => .ok (jumpThrough s (a24 0 (op16 op)))

/-- `ABS_X_IND` (R155): the index addition does not carry into the bank of the pointer. -/
def modeAbsXInd : ModeRule := fun s _ op =>
  match indexX s with
  | .error f => .error f
  | .ok i => .ok (jumpThrough s (bankFixed (a24 s.pbr (op16 op)) i.toNat))

/-- `ABS_L` (R156): the operand verbatim. -/
def modeAbsL : ModeRule := fun _ _ op =>
  .ok { kind := .data, ea := op24 op, ea2 := bankCarry (op24 op) 1, len := 3, cross := false }

/-- `ABS_L_X` (R157). -/
def modeAbsLX : ModeRule := fun s _ op =>
  match indexX s with
  | .error f => .error f
  | .ok i =>
    let ea := bankCarry (op24 op) i.toNat
    .ok { kind := .data, ea := ea, ea2 := bankCarry ea 1, len := 3, cross := indexCarries (op16 op) i }

/-- `RESOLVE.ABS` (R137, R150). -/
def execResolveAbs (ws : WSel) (op : BitVec 24) (s : State) : Result := resolveWith .abs modeAbs ws op s

/-- `RESOLVE.ABS_JMP` (R137, R151). -/
def execResolveAbsJmp (ws : WSel) (op : BitVec 24) (s : State) : Result := resolveWith .absJmp modeAbsJmp ws op s

/-- `RESOLVE.ABS_X` (R137, R152). -/
def execResolveAbsX (ws : WSel) (op : BitVec 24) (s : State) : Result := resolveWith .absX (absIndexed indexX) ws op s

/-- `RESOLVE.ABS_Y` (R137, R153). -/
def execResolveAbsY (ws : WSel) (op : BitVec 24) (s : State) : Result := resolveWith .absY (absIndexed indexY) ws op s

/-- `RESOLVE.ABS_IND` (R137, R154). -/
def execResolveAbsInd (ws : WSel) (op : BitVec 24) (s : State) : Result := resolveWith .absInd modeAbsInd ws op s

/-- `RESOLVE.ABS_X_IND` (R137, R155). -/
def execResolveAbsXInd (ws : WSel) (op : BitVec 24) (s : State) : Result :=
  resolveWith .absXInd modeAbsXInd ws op s

/-- `RESOLVE.ABS_L` (R137, R156). -/
def execResolveAbsL (ws : WSel) (op : BitVec 24) (s : State) : Result := resolveWith .absL modeAbsL ws op s

/-- `RESOLVE.ABS_L_X` (R137, R157). -/
def execResolveAbsLX (ws : WSel) (op : BitVec 24) (s : State) : Result := resolveWith .absLX modeAbsLX ws op s

end Sys2Proof.Machine
end

