-- ==== Sys2Proof/Machine/Bus.lean ====
section
/-! DEFINITION. The memory-bus commands (R108 to R114). -/

namespace Sys2Proof.Machine

/-- The low byte of `v` at `lo`, then, for width 2, its high byte at `hi` (R52, R57). -/
def writeData (s : State) (w : Width) (lo hi : Addr) (v : Word) : State :=
  match w with
  | .byte => memWrite s lo (v.extractLsb' 0 8)
  | .word => memWrite (memWrite s lo (v.extractLsb' 0 8)) hi (v.extractLsb' 8 8)

/-- The data at `lo`, and for width 2 also at `hi`; the high byte is 0 for width 1 (R112, R200). -/
def readData (s : State) (w : Width) (lo hi : Addr) : Word :=
  match w with
  | .byte => (memRead s lo).setWidth 16
  | .word => memRead2 s lo hi

/-- `READ_BYTE` (R110). -/
def execReadByte (a : Addr) (s : State) : Result :=
  whenRunning s (.next (s.respond ((memRead s a).setWidth 64)))

/-- `WRITE_BYTE` (R111). -/
def execWriteByte (a : Addr) (v : Word) (s : State) : Result :=
  whenRunning s
    (if fitsIn v 8 then .next ((memWrite s a (v.extractLsb' 0 8)).respond 0)
    else .next (s.raise (dataRangeFault v 8)))

/-- `READ_OPERAND` (R112): the second byte is at the bank-carry successor (R114). -/
def execReadOperand (a : Addr) (ws : WSel) (s : State) : Result :=
  whenRunning s (.next (s.respond ((readData s (widthOf s ws) a (bankCarry a 1)).setWidth 64)))

/-- `WRITE_OPERAND` (R113): the data must fit the width resolved now. -/
def execWriteOperand (a : Addr) (ws : WSel) (v : Word) (s : State) : Result :=
  whenRunning s
    (if widthOf s ws = .byte ∧ fitsIn v 8 = false then .next (s.raise (dataRangeFault v 8))
    else .next ((writeData s (widthOf s ws) a (bankCarry a 1) v).respond 0))

end Sys2Proof.Machine
end

