-- ==== Sys2Proof/Machine/Direct.lean ====
section
/-! DEFINITION. `RESOLVE` of the direct-page modes (R159 to R168). -/

namespace Sys2Proof.Machine

/-- The result for direct data at `a` (R160 to R162): the second byte is at `dpnext`. -/
def directData (s : State) (a : Addr) : ModeResult :=
  { kind := .data, ea := a, ea2 := dpNext s a, len := 1, cross := dpCross s a }

/-- The result for data at the 2-byte pointer stored at direct address `pa` (R163, R165): the pointer pair follows
`dpnext`, the final bank is `DBR`. -/
def directPointed (s : State) (pa : Addr) : ModeResult :=
  let ptr := fetch2Direct s pa
  let ea := bankCarry (a24 s.dbr ptr) 0
  { kind := .data, ea := ea, ea2 := bankCarry ea 1, len := 1, pn := 2, pa := pa, pv := ptr.setWidth 24,
    cross := dpCross s pa }

/-- Direct data indexed by `index` (R161, R162). -/
def directIndexed (index : State → Except FaultReg Word) : ModeRule := fun s _ op =>
  match index s with
  | .error f => .error f
  | .ok i => .ok (directData s (dpAddr s ((op8 op).toNat + i.toNat)))

/-- `DP` (R160). -/
def modeDp : ModeRule := fun s _ op => .ok (directData s (dpAddr s (op8 op).toNat))

/-- `DP_IND` (R163). -/
def modeDpInd : ModeRule := fun s _ op => .ok (directPointed s (dpAddr s (op8 op).toNat))

/-- `DP_IND_L` (R164): the 3-byte pointer is the final address. -/
def modeDpIndL : ModeRule := fun s _ op =>
  let pa := dpLong s (op8 op).toNat
  let ptr := fetch3 s pa
  .ok { kind := .data, ea := ptr, ea2 := bankCarry ptr 1, len := 1, pn := 3, pa := pa, pv := ptr,
        cross := dpCross s pa }

/-- `DP_X_IND` (R165). -/
def modeDpXInd : ModeRule := fun s _ op =>
  match indexX s with
  | .error f => .error f
  | .ok i => .ok (directPointed s (dpAddr s ((op8 op).toNat + i.toNat)))

/-- `DP_IND_Y` (R166): the index is added after the bank combination and may carry into the bank. -/
def modeDpIndY : ModeRule := fun s _ op =>
  let pa := dpAddr s (op8 op).toNat
  let ptr := fetch2Direct s pa
  match indexY s with
  | .error f => .error f
  | .ok i =>
    let ea := bankCarry (a24 s.dbr ptr) i.toNat
    .ok { kind := .data, ea := ea, ea2 := bankCarry ea 1, len := 1, pn := 2, pa := pa, pv := ptr.setWidth 24,
          cross := dpCross s pa || indexCarries ptr i }

/-- `DP_IND_L_Y` (R167): the pointer's own bank, which the index may carry into. -/
def modeDpIndLY : ModeRule := fun s _ op =>
  let pa := dpLong s (op8 op).toNat
  let ptr := fetch3 s pa
  match indexY s with
  | .error f => .error f
  | .ok i =>
    let ea := bankCarry ptr i.toNat
    .ok { kind := .data, ea := ea, ea2 := bankCarry ea 1, len := 1, pn := 3, pa := pa, pv := ptr,
          cross := dpCross s pa || indexCarries (offOf ptr) i }

/-- `RESOLVE.DP` (R137, R160). -/
def execResolveDp (ws : WSel) (op : BitVec 24) (s : State) : Result := resolveWith .dp modeDp ws op s

/-- `RESOLVE.DP_X` (R137, R161). -/
def execResolveDpX (ws : WSel) (op : BitVec 24) (s : State) : Result := resolveWith .dpX (directIndexed indexX) ws op s

/-- `RESOLVE.DP_Y` (R137, R162). -/
def execResolveDpY (ws : WSel) (op : BitVec 24) (s : State) : Result := resolveWith .dpY (directIndexed indexY) ws op s

/-- `RESOLVE.DP_IND` (R137, R163). -/
def execResolveDpInd (ws : WSel) (op : BitVec 24) (s : State) : Result := resolveWith .dpInd modeDpInd ws op s

/-- `RESOLVE.DP_IND_L` (R137, R164). -/
def execResolveDpIndL (ws : WSel) (op : BitVec 24) (s : State) : Result := resolveWith .dpIndL modeDpIndL ws op s

/-- `RESOLVE.DP_X_IND` (R137, R165). -/
def execResolveDpXInd (ws : WSel) (op : BitVec 24) (s : State) : Result := resolveWith .dpXInd modeDpXInd ws op s

/-- `RESOLVE.DP_IND_Y` (R137, R166). -/
def execResolveDpIndY (ws : WSel) (op : BitVec 24) (s : State) : Result := resolveWith .dpIndY modeDpIndY ws op s

/-- `RESOLVE.DP_IND_L_Y` (R137, R167). -/
def execResolveDpIndLY (ws : WSel) (op : BitVec 24) (s : State) : Result :=
  resolveWith .dpIndLY modeDpIndLY ws op s

end Sys2Proof.Machine
end

