-- ==== Sys2Proof/Machine/Flags.lean ====
section
/-! DEFINITION. The write rule of every register and flag of the file (R95, R96). -/

namespace Sys2Proof.Machine

/-- The stored value of an index register: the low byte only, zero-extended, when the index width is 8 bits (R95). -/
def indexStored (eightBit : Bool) (v : Word) : Word :=
  if eightBit then (v.extractLsb' 0 8).setWidth 16 else v

/-- The stored value of the stack pointer: high byte 0x01 in emulation mode (R95). -/
def stackStored (emulation : Bool) (v : Word) : Word :=
  if emulation then 0x01#8 ++ v.extractLsb' 0 8 else v

/-- Entering emulation mode (R96): `XF <- 1`, `X` and `Y` truncated and `S` pinned to page 1, each if it holds a
value. -/
def enterEmulation (s : State) : State :=
  { s with
    flagE := true
    flagXF := true
    regX := s.regX.map (indexStored true)
    regY := s.regY.map (indexStored true)
    regS := s.regS.map (stackStored true) }

/-- Writing `E` (R96): only a change from 0 to 1 has a further effect. -/
def writeE (s : State) (b : Bool) : State :=
  if b && !s.flagE then enterEmulation s else { s with flagE := b }

/-- Writing `XF` (R95): ignored in emulation mode. -/
def writeXF (s : State) (b : Bool) : State := { s with flagXF := if s.flagE then s.flagXF else b }

/-- Writing `M` (R95): never has another effect (R97). -/
def writeM (s : State) (b : Bool) : State := { s with flagM := b }

/-- `store(r, v)` (R95), which also marks the register defined (R94). `CYC` is not writable; `WRITE_REG` raises
before it gets here. -/
def storeReg (s : State) (r : Reg) (v : Word) : State :=
  match r with
  | .a => { s with regA := some v }
  | .x => { s with regX := some (indexStored s.flagXF v) }
  | .y => { s with regY := some (indexStored s.flagXF v) }
  | .s => { s with regS := some (stackStored s.flagE v) }
  | .d => { s with regD := v }
  | .dbr => { s with dbr := v.extractLsb' 0 8 }
  | .pbr => { s with pbr := v.extractLsb' 0 8 }
  | .pc => s.setPc v
  | .e => writeE s (v.getLsbD 0)
  | .m => writeM s (v.getLsbD 0)
  | .xf => writeXF s (v.getLsbD 0)
  | .cyc => s

end Sys2Proof.Machine
end

