-- ==== Sys2Proof/Machine/RegFile.lean ====
section
/-! DEFINITION. The register-file commands (R91 to R97). -/

namespace Sys2Proof.Machine

/-- `READ_REG` (R93). -/
def execReadReg (r : Reg) (s : State) : Result :=
  whenRunning s
    (match readReg s r with
    | .error f => .next (s.raise f)
    | .ok v => .next (s.respond v))

/-- `WRITE_REG` (R94): the read-only check, then the range check on the data, then the write rule. -/
def execWriteReg (r : Reg) (v : Word) (s : State) : Result :=
  whenRunning s
    (if r = .cyc then .next (s.raise (readOnlyRegister r))
    else if fitsIn v r.bits then .next ((storeReg s r v).respond 0)
    else .next (s.raise (dataRangeFault v r.bits)))

end Sys2Proof.Machine
end

