-- ==== Sys2Proof/Machine/Reset.lean ====
section
/-! DEFINITION. `RESET` (R232). -/

namespace Sys2Proof.Machine

/-- `RESET` (R232): executes even while a fault is recorded (R215). -/
def execReset (s : State) : Result := .next s.applyReset

end Sys2Proof.Machine
end

