-- ==== Sys2Proof/Machine/ResultAccess.lean ====
section
/-! DEFINITION. The result-latch commands and the program-counter commit (R200 to R206). -/

namespace Sys2Proof.Machine

/-- The width an access through the latch has: two bytes exactly when `L.W = 2` (R200, R202). -/
def Latch.width (l : Latch) : Width := if l.w = 2 then .word else .byte

/-- `LOAD_EA` (R200): memory is read as it is now, the latch is kept. -/
def execLoadEa (s : State) : Result :=
  whenRunning s
    (match s.latch.kind with
    | .data => .next (s.respond ((readData s s.latch.width s.latch.ea s.latch.ea2).setWidth 64))
    | .imm => .next (s.respond (s.latch.imm.setWidth 64))
    | .invalid => .next (s.raise (resultKindMismatch .invalid))
    | .none => .next (s.raise (resultKindMismatch .none))
    | .jump => .next (s.raise (resultKindMismatch .jump)))

/-- `STORE_EA` (R202): the kind check, then the range check, then the low byte, then the high byte. -/
def execStoreEa (v : Word) (s : State) : Result :=
  whenRunning s
    (if s.latch.kind ≠ .data then .next (s.raise (resultKindMismatch s.latch.kind))
    else if s.latch.w = 1 ∧ fitsIn v 8 = false then .next (s.raise (dataRangeFault v 8))
    else .next ((writeData s s.latch.width s.latch.ea s.latch.ea2 v).respond 0))

/-- The end of `COMMIT_PC`: `PC` written and marked defined, `L.KIND` invalidated, `RESP` cleared (R205). The kind
`INVALID` defines no field of the latch, so every other field holds 0 (R31, log entry 7). -/
def commitTo (s : State) (target : Word) : State := ((s.setPc target).setLatch Latch.invalid).respond 0

/-- `COMMIT_PC` (R205): a jump takes the offset of `L.EA`; otherwise `PC` passes one opcode byte and `L.LEN` operand
bytes, inside its bank. -/
def execCommitPc (s : State) : Result :=
  whenRunning s
    (match s.latch.kind with
    | .invalid => .next (s.raise (resultKindMismatch .invalid))
    | .jump => .next (commitTo s (offOf s.latch.ea))
    | .none | .imm | .data =>
      match definedValue .pc s.pc with
      | .error f => .next (s.raise f)
      | .ok p => .next (commitTo s (p + 1 + s.latch.len.setWidth 16)))

end Sys2Proof.Machine
end

