-- ==== Sys2Proof/Machine/StackImmediate.lean ====
section
/-! DEFINITION. `RESOLVE` of the stack-relative, implicit and immediate modes (R170 to R178). -/

namespace Sys2Proof.Machine

/-- `A24(0x00, x[S]) + op0`, bank-fixed (R172, R173); raises if `S` holds no value. -/
def stackAddr (s : State) (op : BitVec 24) : Except FaultReg Addr :=
  match definedValue .s s.regS with
  | .error f => .error f
  | .ok v => .ok (bankFixed (a24 0 v) (op8 op).toNat)

/-- `SR` (R172). -/
def modeSr : ModeRule := fun s _ op =>
  match stackAddr s op with
  | .error f => .error f
  | .ok a => .ok { kind := .data, ea := a, ea2 := bankFixed a 1, len := 1, cross := false }

/-- `SR_IND_Y` (R173): `S` is read first, `Y` after the pointer. -/
def modeSrIndY : ModeRule := fun s _ op =>
  match stackAddr s op with
  | .error f => .error f
  | .ok pa =>
    let ptr := fetch2Fixed s pa
    match indexY s with
    | .error f => .error f
    | .ok i =>
      let ea := bankCarry (a24 s.dbr ptr) i.toNat
      .ok { kind := .data, ea := ea, ea2 := bankCarry ea 1, len := 1, pn := 2, pa := pa, pv := ptr.setWidth 24,
            cross := indexCarries ptr i }

/-- `IMP` (R176): no address and no value. -/
def modeImp : ModeRule := fun _ _ _ => .ok { kind := .none, len := 0, cross := false }

/-- `IMM` (R178): one or two operand bytes by the width resolved now. -/
def modeImm : ModeRule := fun _ w op =>
  match w with
  | .byte => .ok { kind := .imm, imm := (op8 op).setWidth 16, len := 1, cross := false }
  | .word => .ok { kind := .imm, imm := op16 op, len := 2, cross := false }

/-- `RESOLVE.IMP` (R137, R176). -/
def execResolveImp (ws : WSel) (op : BitVec 24) (s : State) : Result := resolveWith .imp modeImp ws op s

/-- `RESOLVE.IMM` (R137, R178). -/
def execResolveImm (ws : WSel) (op : BitVec 24) (s : State) : Result := resolveWith .imm modeImm ws op s

/-- `RESOLVE.SR` (R137, R172). -/
def execResolveSr (ws : WSel) (op : BitVec 24) (s : State) : Result := resolveWith .sr modeSr ws op s

/-- `RESOLVE.SR_IND_Y` (R137, R173). -/
def execResolveSrIndY (ws : WSel) (op : BitVec 24) (s : State) : Result := resolveWith .srIndY modeSrIndY ws op s

end Sys2Proof.Machine
end

