-- ==== Sys2Proof/Machine/Dispatch.lean ====
section
/-! DEFINITION. The dispatch: one arm per command. -/

namespace Sys2Proof.Machine

def exec (i : Instr) (s : State) : Host.Outcome State Fault Refusal :=
  match i with
  | .reset => Sys2Proof.Machine.execReset s
  | .readReg r => Sys2Proof.Machine.execReadReg r s
  | .writeReg r v => Sys2Proof.Machine.execWriteReg r v s
  | .readByte a => Sys2Proof.Machine.execReadByte a s
  | .writeByte a v => Sys2Proof.Machine.execWriteByte a v s
  | .readOperand a ws => Sys2Proof.Machine.execReadOperand a ws s
  | .writeOperand a ws v => Sys2Proof.Machine.execWriteOperand a ws v s
  | .resolveImp ws op => Sys2Proof.Machine.execResolveImp ws op s
  | .resolveImm ws op => Sys2Proof.Machine.execResolveImm ws op s
  | .resolveAbs ws op => Sys2Proof.Machine.execResolveAbs ws op s
  | .resolveAbsJmp ws op => Sys2Proof.Machine.execResolveAbsJmp ws op s
  | .resolveAbsX ws op => Sys2Proof.Machine.execResolveAbsX ws op s
  | .resolveAbsY ws op => Sys2Proof.Machine.execResolveAbsY ws op s
  | .resolveAbsInd ws op => Sys2Proof.Machine.execResolveAbsInd ws op s
  | .resolveAbsXInd ws op => Sys2Proof.Machine.execResolveAbsXInd ws op s
  | .resolveDp ws op => Sys2Proof.Machine.execResolveDp ws op s
  | .resolveDpX ws op => Sys2Proof.Machine.execResolveDpX ws op s
  | .resolveDpY ws op => Sys2Proof.Machine.execResolveDpY ws op s
  | .resolveDpInd ws op => Sys2Proof.Machine.execResolveDpInd ws op s
  | .resolveDpIndL ws op => Sys2Proof.Machine.execResolveDpIndL ws op s
  | .resolveDpXInd ws op => Sys2Proof.Machine.execResolveDpXInd ws op s
  | .resolveDpIndY ws op => Sys2Proof.Machine.execResolveDpIndY ws op s
  | .resolveDpIndLY ws op => Sys2Proof.Machine.execResolveDpIndLY ws op s
  | .resolveAbsL ws op => Sys2Proof.Machine.execResolveAbsL ws op s
  | .resolveAbsLX ws op => Sys2Proof.Machine.execResolveAbsLX ws op s
  | .resolveSr ws op => Sys2Proof.Machine.execResolveSr ws op s
  | .resolveSrIndY ws op => Sys2Proof.Machine.execResolveSrIndY ws op s
  | .loadEa => Sys2Proof.Machine.execLoadEa s
  | .storeEa v => Sys2Proof.Machine.execStoreEa v s
  | .commitPc => Sys2Proof.Machine.execCommitPc s

end Sys2Proof.Machine
end

