-- ==== Sys2Proof/Machine/Step.lean ====
section
/-! DEFINITION. One step of the block: take the oldest pending command word, decode it, and execute it or record why
it is rejected (R64, R76, R215). With no command pending the block does nothing (log entry 1). -/

namespace Sys2Proof.Machine

/-- One step. -/
def step (s : State) : Host.Outcome State Fault Refusal :=
  match nextCommand s with
  | none => .next s
  | some (w, s') =>
    match decode w with
    | .ok i => exec i s'
    | .error f => rejectWord f s'

/-- `s` with the command word `w` (its low `nbits` bits) as the very next one to execute (log entry 1). -/
def State.withFetchWord (s : State) (nbits w : Nat) : State := pendFirst s (BitVec.ofNat 64 (w % 2 ^ nbits))

end Sys2Proof.Machine
end

