-- ==== Sys2Proof/Safety.lean ====
section
/-! DEFINITION. What holds of every state a run reaches: the register-file invariant the spec states (R25), the
coherence of the result latch (R31, R32), and the canonical form of memory. -/

namespace Sys2Proof.Machine

/-- `v`, if there is one, has the given high byte. -/
abbrev highByteIs (v : Option Word) (b : Byte) : Prop := ∀ w ∈ v, w.extractLsb' 8 8 = b

/-- The register-file invariant of R25: in emulation mode the index width is 8 bits, the index registers that hold a
value have high byte 0 and the stack pointer, if it holds a value, has high byte 0x01. -/
abbrev State.RegFileOk (s : State) : Prop :=
  s.flagE = true →
    s.flagXF = true ∧ highByteIs s.regX 0 ∧ highByteIs s.regY 0 ∧ highByteIs s.regS 0x01

/-- `L.PN`, `L.PA`, `L.PV` of a result that fetched no pointer. -/
abbrev Latch.NoPointer (l : Latch) : Prop := l.pn = 0 ∧ l.pa = 0 ∧ l.pv = 0

/-- What a latch of each kind looks like (R31, R32): all fields 0 without a result (log entry 7), else a width of 1 or
2, the fields the kind does not define at 0, the second data byte never at the first (R202), a jump's `L.EA2` and the
`L.LEN` of data and of a jump (R135, R67). -/
abbrev Latch.Ok (l : Latch) : Prop :=
  (l.kind = .invalid → l = Latch.invalid) ∧ (l.kind = .invalid ∨ l.w = 1 ∨ l.w = 2) ∧
  (l.kind = .none → l.tag = .imp ∧ l.ea = 0 ∧ l.ea2 = 0 ∧ l.imm = 0 ∧ l.len = 0 ∧ l.NoPointer ∧ l.cross = false) ∧
  (l.kind = .imm → l.tag = .imm ∧ l.ea = 0 ∧ l.ea2 = 0 ∧ l.len = l.w ∧ l.NoPointer ∧ l.cross = false) ∧
  (l.kind = .data → l.imm = 0 ∧ l.ea2 ≠ l.ea ∧ (l.NoPointer ∨ l.pn = 2 ∨ l.pn = 3) ∧ 1 ≤ l.len.toNat) ∧
  (l.kind = .jump →
    l.imm = 0 ∧ bankOf l.ea2 = bankOf l.ea ∧ offOf l.ea2 = offOf l.ea + 1 ∧ l.len = 2 ∧ l.cross = false ∧
    (l.NoPointer ∨ l.pn = 2))

/-- A state a run from power-on with a canonical memory image can reach satisfies this. -/
abbrev State.Safe (s : State) : Prop := s.mem.wf = true ∧ s.RegFileOk ∧ s.latch.Ok

end Sys2Proof.Machine
end

