-- ==== Sys2Proof/Certificates/Slice0/Obligations.lean ====
section
/-! DEFINITION. The statements for the provers. The helpers under `Sys2Proof.Claims` spell results in closed form
(24-bit and 16-bit modular arithmetic, numbers of word bits), not through the model's address primitives. -/

namespace Sys2Proof.Claims

open Sys2Proof.Machine

/-- `op8`, `op16` of the operand bytes (R70) as the low bits of `OP`. -/
abbrev operand8 (op : BitVec 24) : Word := (op.setWidth 8).setWidth 16

/-- The low 16 bits of `OP`. -/
abbrev operand16 (op : BitVec 24) : Word := op.setWidth 16

/-- `k` is the lowest set bit of the data word `v` among the bits from `n` up. -/
abbrev LowestFrom (v : Word) (n k : Nat) : Prop :=
  n ≤ k ∧ k < 16 ∧ v.getLsbD k = true ∧ ∀ j < k, n ≤ j → v.getLsbD j = false

/-- Word bit `k` must be zero in a word whose `CMD` is `cmd` (R64, R65, R75). -/
abbrev MustBeZero (cmd k : Nat) : Prop :=
  k = 15 ∨ (56 ≤ k ∧ k < 64) ∨
  (4 ≤ k ∧ k ≤ 8 ∧ cmd ≠ 8) ∨
  (9 ≤ k ∧ k ≤ 10 ∧ cmd ≠ 6 ∧ cmd ≠ 7 ∧ cmd ≠ 8) ∨
  (11 ≤ k ∧ k ≤ 14 ∧ cmd ≠ 2 ∧ cmd ≠ 3) ∨
  (16 ≤ k ∧ k ≤ 39 ∧ (cmd < 4 ∨ 8 < cmd)) ∨
  (40 ≤ k ∧ k ≤ 55 ∧ cmd ≠ 3 ∧ cmd ≠ 5 ∧ cmd ≠ 7 ∧ cmd ≠ 10)

/-- A set bit of `w` that must be zero. -/
abbrev Offends (w : Command) (k : Nat) : Prop := MustBeZero (w.toNat % 16) k ∧ w.getLsbD k = true

/-- The commands that are a `RESOLVE` of some tag. -/
def isResolve : Instr → Bool
  | .reset | .readReg _ | .writeReg _ _ | .readByte _ | .writeByte _ _ | .readOperand _ _ | .writeOperand _ _ _
  | .loadEa | .storeEa _ | .commitPc => false
  | .resolveImp _ _ | .resolveImm _ _ | .resolveAbs _ _ | .resolveAbsJmp _ _ | .resolveAbsX _ _
  | .resolveAbsY _ _ | .resolveAbsInd _ _ | .resolveAbsXInd _ _ | .resolveDp _ _ | .resolveDpX _ _
  | .resolveDpY _ _ | .resolveDpInd _ _ | .resolveDpIndL _ _ | .resolveDpXInd _ _ | .resolveDpIndY _ _
  | .resolveDpIndLY _ _ | .resolveAbsL _ _ | .resolveAbsLX _ _ | .resolveSr _ _ | .resolveSrIndY _ _ => true

/-- The fault codes a command can record when it executes (R212). -/
def faultsOf : Instr → List FaultCode
  | .reset | .readByte _ | .readOperand _ _ => []
  | .readReg _ => [.undefinedRegister]
  | .writeReg _ _ => [.readOnlyRegister, .reservedBitsSet]
  | .writeByte _ _ | .writeOperand _ _ _ => [.reservedBitsSet]
  | .loadEa => [.resultKindMismatch]
  | .storeEa _ => [.resultKindMismatch, .reservedBitsSet]
  | .commitPc => [.resultKindMismatch, .undefinedRegister]
  | .resolveImp _ _ | .resolveImm _ _ | .resolveAbs _ _ | .resolveAbsJmp _ _ | .resolveAbsInd _ _
  | .resolveAbsL _ _ | .resolveDp _ _ | .resolveDpInd _ _ | .resolveDpIndL _ _ => []
  | .resolveSr _ _ => [.undefinedRegister]
  | .resolveAbsX _ _ | .resolveAbsY _ _ | .resolveAbsXInd _ _ | .resolveAbsLX _ _ | .resolveDpX _ _
  | .resolveDpY _ _ | .resolveDpXInd _ _ | .resolveDpIndY _ _ | .resolveDpIndLY _ _ | .resolveSrIndY _ _ =>
    [.undefinedRegister, .indexWidthIncoherent]

/-- The addresses a command stores to when it executes in `s` (R111, R113, R202). -/
def StoresTo (s : State) (a : Addr) : Instr → Prop
  | .writeByte b _ => a = b
  | .writeOperand b ws _ => a = b ∨ (widthOf s ws = .word ∧ a = b + 1)
  | .storeEa _ => s.latch.kind = .data ∧ (a = s.latch.ea ∨ (s.latch.w = 2 ∧ a = s.latch.ea2))
  | .reset | .readReg _ | .writeReg _ _ | .readByte _ | .readOperand _ _ | .loadEa | .commitPc
  | .resolveImp _ _ | .resolveImm _ _ | .resolveAbs _ _ | .resolveAbsJmp _ _ | .resolveAbsX _ _
  | .resolveAbsY _ _ | .resolveAbsInd _ _ | .resolveAbsXInd _ _ | .resolveDp _ _ | .resolveDpX _ _
  | .resolveDpY _ _ | .resolveDpInd _ _ | .resolveDpIndL _ _ | .resolveDpXInd _ _ | .resolveDpIndY _ _
  | .resolveDpIndLY _ _ | .resolveAbsL _ _ | .resolveAbsLX _ _ | .resolveSr _ _ | .resolveSrIndY _ _ => False

/-- `s` after a completed `RESOLVE` of tag `t` at width `w` with the fields `r` (R137, R187, R188): the latch, the
counter and `RESP`, and nothing else. -/
def resolved (s : State) (t : ModeTag) (w : Width) (r : ModeResult) : State :=
  { s with
    latch :=
      { kind := r.kind, tag := t, w := (match w with | .byte => 1 | .word => 2), ea := r.ea, ea2 := r.ea2,
        imm := r.imm, len := r.len, pn := r.pn, pa := r.pa, pv := r.pv, cross := r.cross,
        cost := BitVec.ofNat 16 (baseCycles s.params t w + r.cross.toNat) }
    cyc := BitVec.ofNat 64 (s.cyc.toNat + baseCycles s.params t w + r.cross.toNat)
    resp := 0 }

/-- Data at `ea`, its second byte at the next address modulo 2^24. -/
abbrev dataAt (ea : Addr) (len : BitVec 2) (cross : Bool) : ModeResult :=
  { kind := .data, ea := ea, ea2 := ea + 1, len := len, cross := cross }

/-- `RESOLVE` that reads the index register with value `v?` and code `r` (R130): it completes with `k` at the register's
value, which under `XF = 1` has high byte 0; it raises `UndefinedRegister(r)` if the register holds no value, and
`IndexWidthIncoherent(r)` if `XF = 1` and its high byte is not 0. -/
def IndexedAt (i : Instr) (s : State) (r : Byte) (v? : Option Word) (k : Word → State) : Prop :=
  (∀ v, v? = some v → (s.flagXF = true → v.toNat < 0x100) → exec i s = .next (k v)) ∧
  (v? = none → exec i s = .next { s with fault := ⟨.undefinedRegister, r⟩ }) ∧
  (∀ v, v? = some v → s.flagXF = true → 0x100 ≤ v.toNat →
    exec i s = .next { s with fault := ⟨.indexWidthIncoherent, r⟩ })

/-- The latch with no result (R31). -/
def noResult : Latch :=
  { kind := .invalid, tag := .imp, w := 0, ea := 0, ea2 := 0, imm := 0, len := 0, pn := 0, pa := 0, pv := 0,
    cross := false, cost := 0 }

/-- The `REG` codes of R29, R68. -/
def regNumber : Reg → Nat
  | .a => 0x0 | .x => 0x1 | .y => 0x2 | .s => 0x3 | .d => 0x4 | .dbr => 0x5
  | .pbr => 0x6 | .pc => 0x7 | .e => 0x8 | .m => 0x9 | .xf => 0xA | .cyc => 0xB

/-- The `WSEL` codes of R69. -/
def wselNumber : WSel → Nat
  | .byM => 0 | .byX => 1 | .fixed8 => 2 | .fixed16 => 3

/-- The word with `match` value `row`, and its operands at the places of R64: `WSEL` from bit 9, `OP`/`ADDR` from bit
16, `DATA` from bit 40. -/
def rowWord (row ws op data : Nat) : Command :=
  BitVec.ofNat 64 (row + ws * 2 ^ 9 + op * 2 ^ 16 + data * 2 ^ 40)

/-- The command word of each instruction as the spec's tables lay it out: the `match` of its row of opcode_table.json
(R66, R67) and the operands of R68 to R72. -/
def tableWord : Instr → Command
  | .reset => rowWord 0x001 0 0 0
  | .readReg r => rowWord (0x002 + regNumber r * 2 ^ 11) 0 0 0
  | .writeReg r v => rowWord (0x003 + regNumber r * 2 ^ 11) 0 0 v.toNat
  | .readByte a => rowWord 0x004 0 a.toNat 0
  | .writeByte a v => rowWord 0x005 0 a.toNat v.toNat
  | .readOperand a ws => rowWord 0x006 (wselNumber ws) a.toNat 0
  | .writeOperand a ws v => rowWord 0x007 (wselNumber ws) a.toNat v.toNat
  | .resolveImp ws op => rowWord 0x008 (wselNumber ws) op.toNat 0
  | .resolveImm ws op => rowWord 0x018 (wselNumber ws) op.toNat 0
  | .resolveAbs ws op => rowWord 0x028 (wselNumber ws) op.toNat 0
  | .resolveAbsJmp ws op => rowWord 0x038 (wselNumber ws) op.toNat 0
  | .resolveAbsX ws op => rowWord 0x048 (wselNumber ws) op.toNat 0
  | .resolveAbsY ws op => rowWord 0x058 (wselNumber ws) op.toNat 0
  | .resolveAbsInd ws op => rowWord 0x068 (wselNumber ws) op.toNat 0
  | .resolveAbsXInd ws op => rowWord 0x078 (wselNumber ws) op.toNat 0
  | .resolveDp ws op => rowWord 0x088 (wselNumber ws) op.toNat 0
  | .resolveDpX ws op => rowWord 0x098 (wselNumber ws) op.toNat 0
  | .resolveDpY ws op => rowWord 0x0A8 (wselNumber ws) op.toNat 0
  | .resolveDpInd ws op => rowWord 0x0B8 (wselNumber ws) op.toNat 0
  | .resolveDpIndL ws op => rowWord 0x0C8 (wselNumber ws) op.toNat 0
  | .resolveDpXInd ws op => rowWord 0x0D8 (wselNumber ws) op.toNat 0
  | .resolveDpIndY ws op => rowWord 0x0E8 (wselNumber ws) op.toNat 0
  | .resolveDpIndLY ws op => rowWord 0x0F8 (wselNumber ws) op.toNat 0
  | .resolveAbsL ws op => rowWord 0x108 (wselNumber ws) op.toNat 0
  | .resolveAbsLX ws op => rowWord 0x118 (wselNumber ws) op.toNat 0
  | .resolveSr ws op => rowWord 0x128 (wselNumber ws) op.toNat 0
  | .resolveSrIndY ws op => rowWord 0x138 (wselNumber ws) op.toNat 0
  | .loadEa => rowWord 0x009 0 0 0
  | .storeEa v => rowWord 0x00A 0 0 v.toNat
  | .commitPc => rowWord 0x00B 0 0 0

/-- The encoding of `i` is that of its row of opcode_table.json: the row's mask selects the row's match. -/
abbrev OfRow (i : Instr) (mask row : Command) : Prop := encode i &&& mask = row

/-- The mask of the `RESOLVE` rows of opcode_table.json. -/
abbrev resolveMask : Command := 0xFFFFFF000000F9FF

/-- `DB` (R131). -/
def db (s : State) : Byte := if s.params.dpBank = .dbr then s.dbr else 0x00

/-- `WRAP` (R132). -/
def wraps (s : State) : Bool :=
  s.flagE && (decide (s.params.emuWrap = .always) || decide (s.regD.toNat % 0x100 = 0))

/-- `D + n`, in the page of `D` when `WRAP`, modulo 0x10000 otherwise (R133). -/
def directOffset (s : State) (n : Word) : Word :=
  if wraps s then (s.regD &&& 0xFF00) + ((s.regD + n) &&& 0x00FF) else s.regD + n

/-- `o + 1`, in the page of `o` when `WRAP`, modulo 0x10000 otherwise (R133). -/
def nextOffset (s : State) (o : Word) : Word :=
  if wraps s then (o &&& 0xFF00) + ((o + 1) &&& 0x00FF) else o + 1

/-- The offset `o` lies in another page than `D` (R133, R186). -/
def leavesPage (s : State) (o : Word) : Bool := decide (o.toNat / 0x100 ≠ s.regD.toNat / 0x100)

/-- Adding `i` to the offset `o` leaves the bank (R186). -/
def leavesBank (o i : Word) : Bool := decide (0x10000 ≤ o.toNat + i.toNat)

/-- The 2-byte pointer in bank `b` with its low byte at offset `o` and its high byte at offset `o'`. -/
def pointer2 (s : State) (b : Byte) (o o' : Word) : Word := memRead s (b ++ o') ++ memRead s (b ++ o)

/-- The 3-byte pointer at offset `o` of bank `b`, which never leaves the bank (R136). -/
def pointer3 (s : State) (b : Byte) (o : Word) : Addr :=
  memRead s (b ++ (o + 2)) ++ memRead s (b ++ (o + 1)) ++ memRead s (b ++ o)

/-- Direct data at offset `o` of the direct bank (R160). -/
def directDataAt (s : State) (o : Word) : ModeResult :=
  { kind := .data, ea := db s ++ o, ea2 := db s ++ nextOffset s o, len := 1, cross := leavesPage s o }

/-- A jump to offset `o` of bank `PBR` (R151). -/
def jumpTo (s : State) (o : Word) : ModeResult :=
  { kind := .jump, ea := s.pbr ++ o, ea2 := s.pbr ++ (o + 1), len := 2, cross := false }

/-- A jump through the pointer at offset `o` of bank `b`, whose pair stays in that bank (R154, R155). -/
def jumpThroughAt (s : State) (b : Byte) (o : Word) : ModeResult :=
  { jumpTo s (pointer2 s b o (o + 1)) with
    pn := 2, pa := b ++ o, pv := (pointer2 s b o (o + 1)).setWidth 24 }

/-- Data through the 2-byte pointer at offset `o` of bank `b` (second byte at `o'`), indexed by `i` from bank `DBR`
with carry (R163, R165, R166, R173). -/
def throughPointer2 (s : State) (b : Byte) (o o' i : Word) (cross : Bool) : ModeResult :=
  { dataAt ((s.dbr ++ pointer2 s b o o') + i.setWidth 24) 1 cross with
    pn := 2, pa := b ++ o, pv := (pointer2 s b o o').setWidth 24 }

/-- Data through the 3-byte pointer at offset `o` of the direct bank, indexed by `i` with carry (R164, R167). -/
def throughPointer3 (s : State) (o i : Word) (cross : Bool) : ModeResult :=
  { dataAt (pointer3 s (db s) o + i.setWidth 24) 1 cross with
    pn := 3, pa := db s ++ o, pv := pointer3 s (db s) o }

/-- Two states that agree on everything `RESOLVE` may depend on (R138): the register file without `A` (R17), memory
and the parameters. -/
def SameInputs (s u : State) : Prop :=
  s.regX = u.regX ∧ s.regY = u.regY ∧ s.regS = u.regS ∧ s.regD = u.regD ∧ s.dbr = u.dbr ∧ s.pbr = u.pbr ∧
  s.flagE = u.flagE ∧ s.flagM = u.flagM ∧ s.flagXF = u.flagXF ∧ s.mem = u.mem ∧ s.params = u.params

end Sys2Proof.Claims

open Sys2Proof Sys2Proof.Machine Sys2Proof.Claims

/-! ### Reset, steps, decoding -/

/-- R232 (decisions D28, D31): `RESET` gives every register, the latch, the counter, `FAULT` and `RESP` their reset values
in every state, also while a fault is recorded; `A`, `X`, `Y`, `S`, `PC` hold no value (log entry 5), `L.TAG` is code 0
(log entry 9). Memory is not changed, nor are the model's own parameters and pending commands. -/
def Obligations.ResetCommandGivesResetValues : Prop :=
  ∀ s : State, exec .reset s = .next
    { s with
      regA := none, regX := none, regY := none, regS := none, pc := none
      regD := 0x0000, dbr := 0x00, pbr := 0x00
      flagE := true, flagM := true, flagXF := true
      cyc := 0
      latch := noResult
      fault := ⟨.none, 0⟩
      resp := 0 }

/-- R64, R76: a step takes the oldest pending command word and runs the instruction it decodes to; the encoded word of
a well-formed instruction runs that instruction. The pending words are the model's own (log entry 1). -/
def Obligations.StepRunsTheDecodedCommand : Prop :=
  ∀ (s : State) (w : Command) (rest : List Command) (i : Instr), s.commands = w :: rest →
    (decode w = .ok i → step s = exec i { s with commands := rest }) ∧
    (i.wellFormed = true → w = encode i → step s = exec i { s with commands := rest })

/-- The model's choice (log entry 1): with no command pending a step changes nothing. -/
def Obligations.IdleWithoutCommand : Prop := ∀ s : State, s.commands = [] → step s = .next s

/-- Sanity: words written out from R64, R66 to R71 decode to the commands they stand for. -/
def Obligations.SampleWordsDecode : Prop :=
  decode 0x0000000000000001 = .ok .reset ∧
  decode 0x0000000000005802 = .ok (.readReg .cyc) ∧
  decode 0x0012340000000803 = .ok (.writeReg .x 0x1234) ∧
  decode 0x0000AA1234560005 = .ok (.writeByte 0x123456 0x00AA) ∧
  decode 0x00CDAB00FFFF0607 = .ok (.writeOperand 0x00FFFF .fixed16 0xCDAB) ∧
  decode 0x00000000FFFE0648 = .ok (.resolveAbsX .fixed16 0x00FFFE) ∧
  decode 0x0000000000020738 = .ok (.resolveSrIndY .fixed16 0x000002) ∧
  decode 0x00BEEF000000000A = .ok (.storeEa 0xBEEF)

/-- R64 to R72 (decisions D1, D3, D8, D20): the encoder gives every instruction the word the spec's tables lay out, its
row's code, its register code, its width select and its operands each at its place, and that word decodes to the
instruction, with every operand. -/
def Obligations.DecodeOfEncodeIsTheInstruction : Prop :=
  ∀ i : Instr, encode i = tableWord i ∧ decode (encode i) = .ok i

/-- R64 to R76: a word the decoder accepts is the encoding of what it decodes to, so no accepted bit is dropped and no
two accepted words mean the same command. -/
def Obligations.EncodeOfDecodeIsTheWord : Prop :=
  ∀ (w : Command) (i : Instr), decode w = .ok i → encode i = w

/-- R73, R74, R75, R76 and R68 (decisions D7, D21, D27): a word with a reserved command code, then a reserved mode or
register code, then a set bit that must be zero records exactly that fault with its information byte and nothing else;
every other word decodes. That a word with both a set bit that must be zero and data out of range reports the former,
also where the data bit is lower (R72, R212: the lowest offending word bit), is the model's reading of the order of R76
(log entry 8). -/
def Obligations.MalformedWordsRecordTheirFault : Prop :=
  ∀ (s : State) (w : Command) (rest : List Command), s.commands = w :: rest → s.Running →
    let cmd := w.toNat % 16
    let mode := w.toNat / 2 ^ 4 % 32
    let reg := w.toNat / 2 ^ 11 % 16
    let badMode := cmd = 8 ∧ 0x14 ≤ mode
    let badReg := (cmd = 2 ∨ cmd = 3) ∧ 0xC ≤ reg
    (cmd = 0 ∨ 0xC ≤ cmd →
      step s = .next { s with commands := rest, fault := ⟨.invalidCommand, BitVec.ofNat 8 cmd⟩ }) ∧
    (badMode → step s = .next { s with commands := rest, fault := ⟨.invalidMode, BitVec.ofNat 8 mode⟩ }) ∧
    (badReg → step s = .next { s with commands := rest, fault := ⟨.invalidRegister, BitVec.ofNat 8 reg⟩ }) ∧
    (1 ≤ cmd → cmd < 0xC → ¬badMode → ¬badReg → ∀ k, Offends w k → (∀ j < k, ¬Offends w j) →
      step s = .next { s with commands := rest, fault := ⟨.reservedBitsSet, BitVec.ofNat 8 k⟩ }) ∧
    (1 ≤ cmd → cmd < 0xC → ¬badMode → ¬badReg → (∀ k, ¬Offends w k) → ∃ i, decode w = .ok i)

/-! ### Address arithmetic and widths -/

/-- R125: bank-carry addition is addition modulo 2^24, and its bank and offset are as the law says. -/
def Obligations.BankCarryIsAdditionModulo24 : Prop :=
  ∀ (a : Addr) (n : Nat),
    bankCarry a n = a + BitVec.ofNat 24 n ∧
    (bankOf (bankCarry a n)).toNat = ((bankOf a).toNat + ((offOf a).toNat + n) / 0x10000) % 256 ∧
    (offOf (bankCarry a n)).toNat = ((offOf a).toNat + n) % 0x10000

/-- R126: bank-fixed addition wraps the offset modulo 65536 and never changes the bank. -/
def Obligations.BankFixedNeverChangesTheBank : Prop :=
  ∀ (a : Addr) (n : Nat),
    bankFixed a n = a.extractLsb' 16 8 ++ (a.setWidth 16 + BitVec.ofNat 16 n) ∧
    (bankFixed a n).toNat / 0x10000 = a.toNat / 0x10000 ∧
    (bankFixed a n).toNat % 0x10000 = (a.toNat + n) % 0x10000

/-- R127: page-fixed addition changes only the low byte, modulo 0x100. -/
def Obligations.PageFixedNeverChangesThePage : Prop :=
  ∀ (a : Addr) (n : Nat),
    pageFixed a n = a.extractLsb' 8 16 ++ (a.setWidth 8 + BitVec.ofNat 8 n) ∧
    (pageFixed a n).toNat / 0x100 = a.toNat / 0x100 ∧
    (pageFixed a n).toNat % 0x100 = (a.toNat + n) % 0x100

/-- R69 (polarity: decision D8): the width select by `M` or by `XF` is one byte exactly when that flag is 1, the fixed
selects are fixed. -/
def Obligations.WidthSelectFollowsTheFlags : Prop :=
  ∀ s : State,
    (widthOf s .byM = .byte ↔ s.flagM = true) ∧ (widthOf s .byX = .byte ↔ s.flagXF = true) ∧
    widthOf s .fixed8 = .byte ∧ widthOf s .fixed16 = .word ∧
    (s.RegFileOk → s.flagE = true → widthOf s .byX = .byte)

/-! ### Register file -/

/-- R93 (decisions D18, D32): `READ_REG` returns each register zero-extended and changes only `RESP`; a register that
holds no value raises `UndefinedRegister` with its code. -/
def Obligations.ReadRegReturnsTheRegister : Prop :=
  ∀ s : State, s.Running →
    (∀ v, s.regA = some v → exec (.readReg .a) s = .next { s with resp := v.setWidth 64 }) ∧
    (∀ v, s.regX = some v → exec (.readReg .x) s = .next { s with resp := v.setWidth 64 }) ∧
    (∀ v, s.regY = some v → exec (.readReg .y) s = .next { s with resp := v.setWidth 64 }) ∧
    (∀ v, s.regS = some v → exec (.readReg .s) s = .next { s with resp := v.setWidth 64 }) ∧
    (∀ v, s.pc = some v → exec (.readReg .pc) s = .next { s with resp := v.setWidth 64 }) ∧
    exec (.readReg .d) s = .next { s with resp := s.regD.setWidth 64 } ∧
    exec (.readReg .dbr) s = .next { s with resp := s.dbr.setWidth 64 } ∧
    exec (.readReg .pbr) s = .next { s with resp := s.pbr.setWidth 64 } ∧
    exec (.readReg .e) s = .next { s with resp := if s.flagE then 1 else 0 } ∧
    exec (.readReg .m) s = .next { s with resp := if s.flagM then 1 else 0 } ∧
    exec (.readReg .xf) s = .next { s with resp := if s.flagXF then 1 else 0 } ∧
    exec (.readReg .cyc) s = .next { s with resp := s.cyc } ∧
    (s.regA = none → exec (.readReg .a) s = .next { s with fault := ⟨.undefinedRegister, 0x0⟩ }) ∧
    (s.regX = none → exec (.readReg .x) s = .next { s with fault := ⟨.undefinedRegister, 0x1⟩ }) ∧
    (s.regY = none → exec (.readReg .y) s = .next { s with fault := ⟨.undefinedRegister, 0x2⟩ }) ∧
    (s.regS = none → exec (.readReg .s) s = .next { s with fault := ⟨.undefinedRegister, 0x3⟩ }) ∧
    (s.pc = none → exec (.readReg .pc) s = .next { s with fault := ⟨.undefinedRegister, 0x7⟩ })

/-- R94, R95 (decision D16): `WRITE_REG` of every register but `E`, with data that fits, stores what the write rule says
and changes nothing else but `RESP`, which is cleared. -/
def Obligations.WriteRegStoresByTheWriteRule : Prop :=
  ∀ (s : State) (v : Word), s.Running →
    exec (.writeReg .a v) s = .next { s with regA := some v, resp := 0 } ∧
    exec (.writeReg .d v) s = .next { s with regD := v, resp := 0 } ∧
    exec (.writeReg .pc v) s = .next { s with pc := some v, resp := 0 } ∧
    exec (.writeReg .x v) s = .next { s with regX := some (if s.flagXF then v &&& 0x00FF else v), resp := 0 } ∧
    exec (.writeReg .y v) s = .next { s with regY := some (if s.flagXF then v &&& 0x00FF else v), resp := 0 } ∧
    exec (.writeReg .s v) s =
      .next { s with regS := some (if s.flagE then 0x0100 ||| (v &&& 0x00FF) else v), resp := 0 } ∧
    (v.toNat < 0x100 →
      exec (.writeReg .dbr v) s = .next { s with dbr := v.setWidth 8, resp := 0 } ∧
      exec (.writeReg .pbr v) s = .next { s with pbr := v.setWidth 8, resp := 0 }) ∧
    (v.toNat < 2 →
      exec (.writeReg .m v) s = .next { s with flagM := decide (v.toNat = 1), resp := 0 } ∧
      exec (.writeReg .xf v) s =
        .next { s with flagXF := if s.flagE then s.flagXF else decide (v.toNat = 1), resp := 0 })

/-- R96 (decision D17), R92: writing `E` from 0 to 1 sets `XF`, truncates `X` and `Y` and pins the high byte of `S`, each if
it holds a value; writing 0, or 1 when `E` is 1, changes nothing but `E` and `RESP`. -/
def Obligations.WriteEEntersEmulation : Prop :=
  ∀ s : State, s.Running →
    exec (.writeReg .e 0) s = .next { s with flagE := false, resp := 0 } ∧
    (s.flagE = true → exec (.writeReg .e 1) s = .next { s with resp := 0 }) ∧
    (s.flagE = false → exec (.writeReg .e 1) s = .next
      { s with
        flagE := true
        flagXF := true
        regX := s.regX.map (· &&& 0x00FF)
        regY := s.regY.map (· &&& 0x00FF)
        regS := s.regS.map (fun v => 0x0100 ||| (v &&& 0x00FF))
        resp := 0 })

/-- R94 (decision D21): `WRITE_REG CYC` raises `ReadOnlyRegister(0xB)` whatever the data; data above the width of an
8-bit or 1-bit register raises `ReservedBitsSet` with the word index of the lowest such bit. Nothing is written. -/
def Obligations.WriteRegRejectsBadData : Prop :=
  ∀ (s : State) (v : Word), s.Running →
    exec (.writeReg .cyc v) s = .next { s with fault := ⟨.readOnlyRegister, 0xB⟩ } ∧
    (∀ k, LowestFrom v 8 k → ∀ r, r = Reg.dbr ∨ r = Reg.pbr →
      exec (.writeReg r v) s = .next { s with fault := ⟨.reservedBitsSet, BitVec.ofNat 8 (40 + k)⟩ }) ∧
    (∀ k, LowestFrom v 1 k → ∀ r, r = Reg.e ∨ r = Reg.m ∨ r = Reg.xf →
      exec (.writeReg r v) s = .next { s with fault := ⟨.reservedBitsSet, BitVec.ofNat 8 (40 + k)⟩ })

/-- R97, R239 (decision D15): setting `XF` in native mode leaves `X` and `Y` as they were; an index register left with a
non-zero high byte then makes `RESOLVE` of every tag that reads it raise `IndexWidthIncoherent` (`SR_IND_Y` only if `S`
holds a value: `S` is checked first, R213), while `READ_REG` still returns its 16 bits. -/
def Obligations.NarrowingXFLeavesTheIndexIncoherent : Prop :=
  ∀ (s : State) (v : Word) (ws : WSel) (op : BitVec 24), s.Running → s.flagE = false → 0x100 ≤ v.toNat →
    ∃ t, exec (.writeReg .xf 1) s = .next t ∧ t = { s with flagXF := true, resp := 0 } ∧
      (s.regX = some v →
        (∀ i ∈ [.resolveAbsX ws op, .resolveAbsXInd ws op, .resolveAbsLX ws op, .resolveDpX ws op,
            .resolveDpXInd ws op],
          exec i t = .next { t with fault := ⟨.indexWidthIncoherent, 0x1⟩ }) ∧
        exec (.readReg .x) t = .next { t with resp := v.setWidth 64 }) ∧
      (s.regY = some v →
        (∀ i ∈ [.resolveAbsY ws op, .resolveDpY ws op, .resolveDpIndY ws op, .resolveDpIndLY ws op],
          exec i t = .next { t with fault := ⟨.indexWidthIncoherent, 0x2⟩ }) ∧
        (s.regS ≠ none →
          exec (.resolveSrIndY ws op) t = .next { t with fault := ⟨.indexWidthIncoherent, 0x2⟩ }) ∧
        (s.regS = none →
          exec (.resolveSrIndY ws op) t = .next { t with fault := ⟨.undefinedRegister, 0x3⟩ }) ∧
        exec (.readReg .y) t = .next { t with resp := v.setWidth 64 })

/-! ### Memory bus -/

/-- R110, R112: `READ_BYTE` returns the byte; `READ_OPERAND` returns one byte, or two with the high byte at the next
address modulo 2^24. Only `RESP` changes. -/
def Obligations.BusReadsReturnMemory : Prop :=
  ∀ (s : State) (a : Addr) (ws : WSel), s.Running →
    exec (.readByte a) s = .next { s with resp := (memRead s a).setWidth 64 } ∧
    (widthOf s ws = .byte → exec (.readOperand a ws) s = .next { s with resp := (memRead s a).setWidth 64 }) ∧
    (widthOf s ws = .word →
      exec (.readOperand a ws) s = .next { s with resp := (memRead s (a + 1) ++ memRead s a).setWidth 64 }) ∧
    OfRow (.readByte a) 0xFFFFFF000000FFFF 0x4 ∧ OfRow (.readOperand a ws) 0xFFFFFF000000F9FF 0x6

/-- R111 (decision D21), R51: `WRITE_BYTE` changes the one byte and clears `RESP`; data above a byte raises
`ReservedBitsSet` and writes nothing. -/
def Obligations.WriteByteChangesOneByte : Prop :=
  ∀ (s : State) (a : Addr) (v : Word), s.Running → s.mem.wf = true →
    (v.toNat < 0x100 →
      ∃ t, exec (.writeByte a v) s = .next t ∧ t = { s with mem := t.mem, resp := 0 } ∧ t.mem.wf = true ∧
        ∀ b, memRead t b = if b = a then v.setWidth 8 else memRead s b) ∧
    (∀ k, LowestFrom v 8 k →
      exec (.writeByte a v) s = .next { s with fault := ⟨.reservedBitsSet, BitVec.ofNat 8 (40 + k)⟩ })

/-- R113 (decision D21): `WRITE_OPERAND` writes one byte, or two with the high byte at the next address modulo 2^24, and
clears `RESP`; at width 1 data above a byte raises `ReservedBitsSet` and writes nothing. -/
def Obligations.WriteOperandChangesItsBytes : Prop :=
  ∀ (s : State) (a : Addr) (ws : WSel) (v : Word), s.Running → s.mem.wf = true →
    (widthOf s ws = .byte → v.toNat < 0x100 →
      ∃ t, exec (.writeOperand a ws v) s = .next t ∧ t = { s with mem := t.mem, resp := 0 } ∧ t.mem.wf = true ∧
        ∀ b, memRead t b = if b = a then v.setWidth 8 else memRead s b) ∧
    (widthOf s ws = .word →
      ∃ t, exec (.writeOperand a ws v) s = .next t ∧ t = { s with mem := t.mem, resp := 0 } ∧ t.mem.wf = true ∧
        ∀ b, memRead t b =
          if b = a + 1 then v.extractLsb' 8 8 else if b = a then v.setWidth 8 else memRead s b) ∧
    (widthOf s ws = .byte → ∀ k, LowestFrom v 8 k →
      exec (.writeOperand a ws v) s = .next { s with fault := ⟨.reservedBitsSet, BitVec.ofNat 8 (40 + k)⟩ })

/-- R52, R62: a 16-bit write is seen whole by the next 16-bit read at the same address, also across a bank edge, and a
`STORE_EA` by the next `LOAD_EA`. -/
def Obligations.NextReadSeesTheWrite : Prop :=
  ∀ (s : State) (a : Addr) (v : Word), s.Running → s.mem.wf = true →
    (∃ t, exec (.writeOperand a .fixed16 v) s = .next t ∧
      exec (.readOperand a .fixed16) t = .next { t with resp := v.setWidth 64 }) ∧
    (s.latch.kind = .data → s.latch.w = 2 → s.latch.ea2 ≠ s.latch.ea →
      ∃ t, exec (.storeEa v) s = .next t ∧ exec .loadEa t = .next { t with resp := v.setWidth 64 })

/-! ### Result latch and program counter -/

/-- R200: `LOAD_EA` returns the data at `L.EA` (and `L.EA2` for width 2), or the immediate; any other kind raises
`ResultKindMismatch` with the kind's code. -/
def Obligations.LoadEaReturnsTheOperand : Prop :=
  ∀ s : State, s.Running →
    (s.latch.kind = .data → s.latch.w ≠ 2 →
      exec .loadEa s = .next { s with resp := (memRead s s.latch.ea).setWidth 64 }) ∧
    (s.latch.kind = .data → s.latch.w = 2 →
      exec .loadEa s =
        .next { s with resp := (memRead s s.latch.ea2 ++ memRead s s.latch.ea).setWidth 64 }) ∧
    (s.latch.kind = .imm → exec .loadEa s = .next { s with resp := s.latch.imm.setWidth 64 }) ∧
    (s.latch.kind = .invalid → exec .loadEa s = .next { s with fault := ⟨.resultKindMismatch, 0⟩ }) ∧
    (s.latch.kind = .none → exec .loadEa s = .next { s with fault := ⟨.resultKindMismatch, 1⟩ }) ∧
    (s.latch.kind = .jump → exec .loadEa s = .next { s with fault := ⟨.resultKindMismatch, 4⟩ }) ∧
    OfRow .loadEa 0xFFFFFFFFFFFFFFFF 0x9

/-- R202: `STORE_EA` with a data latch writes the low byte at `L.EA` and, for width 2, the high byte at `L.EA2`, and clears
`RESP`; every other kind raises `ResultKindMismatch`, and at width 1 data above a byte raises `ReservedBitsSet`. -/
def Obligations.StoreEaWritesTheOperand : Prop :=
  ∀ (s : State) (v : Word), s.Running → s.mem.wf = true →
    (s.latch.kind = .data → s.latch.w = 1 → v.toNat < 0x100 →
      ∃ t, exec (.storeEa v) s = .next t ∧ t = { s with mem := t.mem, resp := 0 } ∧ t.mem.wf = true ∧
        ∀ b, memRead t b = if b = s.latch.ea then v.setWidth 8 else memRead s b) ∧
    (s.latch.kind = .data → s.latch.w = 2 →
      ∃ t, exec (.storeEa v) s = .next t ∧ t = { s with mem := t.mem, resp := 0 } ∧ t.mem.wf = true ∧
        ∀ b, memRead t b =
          if b = s.latch.ea2 then v.extractLsb' 8 8
          else if b = s.latch.ea then v.setWidth 8 else memRead s b) ∧
    (s.latch.kind = .data → s.latch.w = 1 → ∀ k, LowestFrom v 8 k →
      exec (.storeEa v) s = .next { s with fault := ⟨.reservedBitsSet, BitVec.ofNat 8 (40 + k)⟩ }) ∧
    (s.latch.kind = .invalid → exec (.storeEa v) s = .next { s with fault := ⟨.resultKindMismatch, 0⟩ }) ∧
    (s.latch.kind = .none → exec (.storeEa v) s = .next { s with fault := ⟨.resultKindMismatch, 1⟩ }) ∧
    (s.latch.kind = .imm → exec (.storeEa v) s = .next { s with fault := ⟨.resultKindMismatch, 2⟩ }) ∧
    (s.latch.kind = .jump → exec (.storeEa v) s = .next { s with fault := ⟨.resultKindMismatch, 4⟩ })

/-- R205 (decision D26): `COMMIT_PC` takes the offset of a jump target, or advances `PC` by one opcode byte and `L.LEN`
operand bytes modulo 0x10000; it invalidates the latch and clears `RESP`. That the latch fields beside the kind hold 0
afterwards is R31 read together with R205 (log entry 7). -/
def Obligations.CommitPcAdvancesOrJumps : Prop :=
  ∀ s : State, s.Running →
    (s.latch.kind = .jump → exec .commitPc s = .next
      { s with pc := some (s.latch.ea.setWidth 16), latch := noResult, resp := 0 }) ∧
    (∀ p, s.latch.kind = .none ∨ s.latch.kind = .imm ∨ s.latch.kind = .data → s.pc = some p →
      exec .commitPc s = .next
        { s with
          pc := some (BitVec.ofNat 16 (p.toNat + 1 + s.latch.len.toNat))
          latch := noResult
          resp := 0 }) ∧
    (s.latch.kind = .none ∨ s.latch.kind = .imm ∨ s.latch.kind = .data → s.pc = none →
      exec .commitPc s = .next { s with fault := ⟨.undefinedRegister, 0x7⟩ }) ∧
    (s.latch.kind = .invalid → exec .commitPc s = .next { s with fault := ⟨.resultKindMismatch, 0⟩ })

/-! ### RESOLVE, family by family -/

/-- R150, R152, R153, R156, R157: the absolute data modes. The index addition and the second byte carry into the bank. The
second byte of the long modes is decision D14, the index faults are decisions D15, D18, and the latch, `RESP`, cost and
counter of every `RESOLVE` (R137) are decisions D22, D24, D25, D32. -/
def Obligations.AbsoluteDataModesResolve : Prop :=
  ∀ (s : State) (ws : WSel) (op : BitVec 24), s.Running →
    let w := widthOf s ws
    let base : Addr := s.dbr ++ operand16 op
    exec (.resolveAbs ws op) s = .next (resolved s .abs w (dataAt base 2 false)) ∧
    IndexedAt (.resolveAbsX ws op) s 0x1 s.regX
      (fun i => resolved s .absX w (dataAt (base + i.setWidth 24) 2 (leavesBank (operand16 op) i))) ∧
    IndexedAt (.resolveAbsY ws op) s 0x2 s.regY
      (fun i => resolved s .absY w (dataAt (base + i.setWidth 24) 2 (leavesBank (operand16 op) i))) ∧
    exec (.resolveAbsL ws op) s = .next (resolved s .absL w (dataAt op 3 false)) ∧
    IndexedAt (.resolveAbsLX ws op) s 0x1 s.regX
      (fun i => resolved s .absLX w (dataAt (op + i.setWidth 24) 3 (leavesBank (operand16 op) i))) ∧
    OfRow (.resolveAbs ws op) resolveMask 0x28 ∧ OfRow (.resolveAbsX ws op) resolveMask 0x48 ∧
    OfRow (.resolveAbsY ws op) resolveMask 0x58 ∧ OfRow (.resolveAbsL ws op) resolveMask 0x108 ∧
    OfRow (.resolveAbsLX ws op) resolveMask 0x118

/-- R151, R154, R155 (decisions D12, D15, D18, D22, D23, D24, D25): the control-transfer modes. The target is in bank `PBR`; the pointer pair
stays in bank 0x00 or in bank `PBR`, and the index addition does not carry into the bank. -/
def Obligations.JumpModesResolve : Prop :=
  ∀ (s : State) (ws : WSel) (op : BitVec 24), s.Running →
    let w := widthOf s ws
    exec (.resolveAbsJmp ws op) s = .next (resolved s .absJmp w (jumpTo s (operand16 op))) ∧
    exec (.resolveAbsInd ws op) s = .next (resolved s .absInd w (jumpThroughAt s 0x00 (operand16 op))) ∧
    IndexedAt (.resolveAbsXInd ws op) s 0x1 s.regX
      (fun i => resolved s .absXInd w (jumpThroughAt s s.pbr (operand16 op + i)))

/-- R160, R161, R162 (decisions D6, D9, D10, D15, D18, D22, D24, D25, D35): the direct data modes, for either value of `P_DP_BANK` and of
`P_EMU_WRAP`: the address and the second byte stay in the page of `D` when `WRAP`, and always in the direct bank. -/
def Obligations.DirectDataModesResolve : Prop :=
  ∀ (s : State) (ws : WSel) (op : BitVec 24), s.Running →
    let w := widthOf s ws
    exec (.resolveDp ws op) s =
      .next (resolved s .dp w (directDataAt s (directOffset s (operand8 op)))) ∧
    IndexedAt (.resolveDpX ws op) s 0x1 s.regX
      (fun i => resolved s .dpX w (directDataAt s (directOffset s (operand8 op + i)))) ∧
    IndexedAt (.resolveDpY ws op) s 0x2 s.regY
      (fun i => resolved s .dpY w (directDataAt s (directOffset s (operand8 op + i))))

/-- R163, R165, R166: the direct modes through a 2-byte pointer. The pointer pair follows the page-wrap condition, the
final bank is `DBR`, and `Y` is added after the bank combination with carry. The direct bank, the page-wrap condition,
the pointer's bank, which pairs wrap, and the second byte are decisions D9, D10, D11, D12, D14, the index faults and the
crossing of the direct page decisions D15, D18, D35, the latch, cost and counter decisions D22, D24, D25. -/
def Obligations.DirectIndirectModesResolve : Prop :=
  ∀ (s : State) (ws : WSel) (op : BitVec 24), s.Running →
    let w := widthOf s ws
    let o := directOffset s (operand8 op)
    exec (.resolveDpInd ws op) s =
      .next (resolved s .dpInd w (throughPointer2 s (db s) o (nextOffset s o) 0 (leavesPage s o))) ∧
    IndexedAt (.resolveDpXInd ws op) s 0x1 s.regX
      (fun i =>
        let ox := directOffset s (operand8 op + i)
        resolved s .dpXInd w (throughPointer2 s (db s) ox (nextOffset s ox) 0 (leavesPage s ox))) ∧
    IndexedAt (.resolveDpIndY ws op) s 0x2 s.regY
      (fun i => resolved s .dpIndY w (throughPointer2 s (db s) o (nextOffset s o) i
        (leavesPage s o || leavesBank (pointer2 s (db s) o (nextOffset s o)) i))) ∧
    OfRow (.resolveDpInd ws op) resolveMask 0xB8 ∧ OfRow (.resolveDpXInd ws op) resolveMask 0xD8 ∧
    OfRow (.resolveDpIndY ws op) resolveMask 0xE8

/-- R164, R167 (decisions D9, D11, D12, D13, D14, D15, D18, D22, D24, D25, D35): the direct modes through a 3-byte pointer. No page wrap, also in emulation mode; the
pointer's own bank is the final bank. -/
def Obligations.DirectLongModesResolve : Prop :=
  ∀ (s : State) (ws : WSel) (op : BitVec 24), s.Running →
    let w := widthOf s ws
    let o := s.regD + operand8 op
    exec (.resolveDpIndL ws op) s =
      .next (resolved s .dpIndL w (throughPointer3 s o 0 (leavesPage s o))) ∧
    IndexedAt (.resolveDpIndLY ws op) s 0x2 s.regY
      (fun i => resolved s .dpIndLY w (throughPointer3 s o i
        (leavesPage s o || leavesBank ((pointer3 s (db s) o).setWidth 16) i)))

/-- R172, R173, R213 (decisions D12, D14, D15, D18, D22, D24, D25): the stack-relative modes, in bank 0x00 and without page wrap; `S` is checked
before `Y`. -/
def Obligations.StackModesResolve : Prop :=
  ∀ (s : State) (ws : WSel) (op : BitVec 24), s.Running →
    let w := widthOf s ws
    (s.regS = none →
      exec (.resolveSr ws op) s = .next { s with fault := ⟨.undefinedRegister, 0x3⟩ } ∧
      exec (.resolveSrIndY ws op) s = .next { s with fault := ⟨.undefinedRegister, 0x3⟩ }) ∧
    (∀ v, s.regS = some v →
      let o := v + operand8 op
      exec (.resolveSr ws op) s = .next (resolved s .sr w
        { kind := .data, ea := 0x00#8 ++ o, ea2 := 0x00#8 ++ (o + 1), len := 1, cross := false }) ∧
      IndexedAt (.resolveSrIndY ws op) s 0x2 s.regY
        (fun i => resolved s .srIndY w (throughPointer2 s 0x00 o (o + 1) i
          (leavesBank (pointer2 s 0x00 o (o + 1)) i))))

/-- R176, R178, R177 (decisions D4, D5, D22, D24, D25): implicit gives no address and no value; immediate gives one or two operand
bytes by the width at execution. Both are charged. -/
def Obligations.ImplicitAndImmediateResolve : Prop :=
  ∀ (s : State) (ws : WSel) (op : BitVec 24), s.Running →
    exec (.resolveImp ws op) s =
      .next (resolved s .imp (widthOf s ws) { kind := .none, len := 0, cross := false }) ∧
    (widthOf s ws = .byte → exec (.resolveImm ws op) s =
      .next (resolved s .imm .byte { kind := .imm, imm := operand8 op, len := 1, cross := false })) ∧
    (widthOf s ws = .word → exec (.resolveImm ws op) s =
      .next (resolved s .imm .word { kind := .imm, imm := operand16 op, len := 2, cross := false }))

/-- R158, R174 (the spec's own reading of the law of the source's section 8): a jump target is in bank `PBR`, the pointer
of `ABS_IND` in bank 0x00 and that of `ABS_X_IND` in bank `PBR`, stack-relative data and pointers in bank 0x00,
whatever the operands. -/
def Obligations.FixedBanksIgnoreOverflow : Prop :=
  ∀ (s t : State) (ws : WSel) (op : BitVec 24), s.Running → t.Running →
    (exec (.resolveAbsJmp ws op) s = .next t → bankOf t.latch.ea = s.pbr) ∧
    (exec (.resolveAbsInd ws op) s = .next t → bankOf t.latch.ea = s.pbr ∧ bankOf t.latch.pa = 0x00) ∧
    (exec (.resolveAbsXInd ws op) s = .next t → bankOf t.latch.ea = s.pbr ∧ bankOf t.latch.pa = s.pbr) ∧
    (exec (.resolveSr ws op) s = .next t → bankOf t.latch.ea = 0x00 ∧ bankOf t.latch.ea2 = 0x00) ∧
    (exec (.resolveSrIndY ws op) s = .next t → bankOf t.latch.pa = 0x00)

/-- R168, R159: when `WRAP`, the high byte of a direct 2-byte pointer comes from the page of its low byte, also when the
low byte is at the top of the page. -/
def Obligations.WrappedPointerStaysInItsPage : Prop :=
  ∀ (s t : State) (ws : WSel) (op : BitVec 24) (i : Instr), s.Running → t.Running → wraps s = true →
    i = .resolveDpInd ws op ∨ i = .resolveDpXInd ws op ∨ i = .resolveDpIndY ws op → exec i s = .next t →
    t.latch.pv.setWidth 16 =
      memRead s (t.latch.pa.extractLsb' 8 16 ++ (t.latch.pa.setWidth 8 + 1#8)) ++ memRead s t.latch.pa

/-- R138: `RESOLVE` depends on nothing but the register file, memory, the command and the parameters: two states that
agree on those get the same latch (address and cost), or the same fault. That neither `A` nor `PC` of the register file
is an input either is what the spec infers from its mode rules (R17, R27). -/
def Obligations.ResolveDependsOnItsInputsOnly : Prop :=
  ∀ (s u t v : State) (i : Instr), isResolve i = true → s.Running → u.Running → SameInputs s u →
    exec i s = .next t → exec i u = .next v →
    (t.Running ↔ v.Running) ∧ (t.Running → t.latch = v.latch) ∧ (¬t.Running → t.fault = v.fault)

/-! ### Whole-machine rules -/

/-- R206 (decision D26), R20: a step changes `PBR` only if it runs `WRITE_REG PBR` or `RESET`. -/
def Obligations.OnlyWriteRegAndResetChangePbr : Prop :=
  ∀ s t : State, step s = .next t → t.pbr ≠ s.pbr →
    ∃ w rest i, s.commands = w :: rest ∧ decode w = .ok i ∧ (i = .reset ∨ ∃ v, i = .writeReg .pbr v)

/-- R188, R189, R30 (decision D25): a completed `RESOLVE` adds its cost to `CYC` modulo 2^64, a faulting one adds nothing,
`RESET` clears it, and no other command changes it. -/
def Obligations.OnlyResolveChargesTheCounter : Prop :=
  ∀ (s t : State) (i : Instr), s.Running → exec i s = .next t →
    (isResolve i = true → t.Running → t.cyc.toNat = (s.cyc.toNat + t.latch.cost.toNat) % 2 ^ 64) ∧
    (isResolve i = true → ¬t.Running → t.cyc = s.cyc) ∧
    (i = .reset → t.cyc = 0) ∧
    (isResolve i = false → i ≠ .reset → t.cyc = s.cyc)

/-- R204, R37, R238 (decision D22): the latch survives every command except `RESOLVE`, `RESET` and a `COMMIT_PC` that
completes, which leaves a latch with no result. That its other fields then hold 0 is R31 read together with R205 (log
entry 7). -/
def Obligations.LatchSurvivesOtherCommands : Prop :=
  ∀ (s t : State) (i : Instr), exec i s = .next t → isResolve i = false → i ≠ .reset →
    (i ≠ .commitPc → t.latch = s.latch) ∧
    (i = .commitPc → t.Running → t.latch = noResult) ∧ (i = .commitPc → ¬t.Running → t.latch = s.latch)

/-- R51, R91, R108, R111, R113, R137, R202, R232: a byte of memory changes only if the command stores to its address;
`RESOLVE`, the register-file commands, the reads, `COMMIT_PC` and `RESET` change none. -/
def Obligations.OnlyStoresChangeMemory : Prop :=
  ∀ (s t : State) (i : Instr) (a : Addr), s.mem.wf = true → exec i s = .next t →
    memRead t a ≠ memRead s a → StoresTo s a i

/-- R214 (decision D27): a command that records a fault changes nothing but the fault register. -/
def Obligations.FaultsArePrecise : Prop :=
  ∀ (s t : State) (i : Instr), s.Running → exec i s = .next t → ¬t.Running → t = { s with fault := t.fault }

/-- R212: a command records only the faults the table lists for it. -/
def Obligations.CommandsRaiseOnlyTheirFaults : Prop :=
  ∀ (s t : State) (i : Instr), s.Running → exec i s = .next t → t.Running ∨ t.fault.code ∈ faultsOf i

/-- R215, R33 (decision D27): while a fault is recorded every command but `RESET`, and every malformed word, also one with
the command code of `RESET`, leaves the whole state unchanged but for the model's own list of pending commands. -/
def Obligations.RecordedFaultIgnoresCommands : Prop :=
  ∀ (s : State) (w : Command) (rest : List Command), s.commands = w :: rest → ¬s.Running →
    (w ≠ encode .reset → step s = .next { s with commands := rest }) ∧
    (∀ i, i ≠ .reset → exec i s = .next s)

/-- The model's reading (log entries 1 and 6): no step stops the machine. Decoding is total (R76), a fault is recorded in a
next state and holds back later commands (R214, R215, decision D27), where R211 says that it stops the block; a step with
no command pending goes on; and no memory access or address addition faults (R48, R128). -/
def Obligations.EveryStepHasANextState : Prop :=
  ∀ s : State, (∃ t, step s = .next t) ∧ ∀ i, ∃ t, exec i s = .next t

/-- The model's choice (log entry 2): no step changes the parameters, and a step consumes at most the oldest pending
command. -/
def Obligations.ParametersNeverChange : Prop :=
  ∀ s t : State, step s = .next t → t.params = s.params ∧ t.commands = s.commands.tail

/-! ### Invariants -/

/-- R25: every step keeps the register-file invariant. -/
def Obligations.RegisterFileStaysCoherent : Prop :=
  ∀ s t : State, s.RegFileOk → step s = .next t → t.RegFileOk

/-- R31, R32 (decision D22): every step keeps the result latch as its kind says: every field 0 without a result (log entry
7), else width 1 or 2 and the fields the kind does not define at 0. The clause on distinct data byte addresses is the
spec's inference in R202, a jump's second address in its bank its decision D23 (R135, informative only), the operand
count of data and jump latches is R67 (decision D3). -/
def Obligations.LatchStaysCoherent : Prop :=
  ∀ s t : State, s.latch.Ok → step s = .next t → t.latch.Ok

/-- The canonical form of memory (log entry 4) is kept by every step. -/
def Obligations.MemoryStaysCanonical : Prop :=
  ∀ s t : State, s.mem.wf = true → step s = .next t → t.mem.wf = true

/-- The state at power-on with any parameters and any canonical memory image satisfies the three invariants, and no
fault is recorded (R231, R232). -/
def Obligations.PowerOnStateIsSafe : Prop :=
  State.reset.Safe ∧ State.reset.Running ∧
  ∀ (p : Params) (m : Memory), m.wf = true → (State.powerOn p m).Safe ∧ (State.powerOn p m).Running
end

