-- ==== Sys2Proof/Laws/Codes.lean ====
section
/-! SUPPORT. Every code names one thing and every thing has one code; fields of a packed word; the lowest set bit. -/

namespace Sys2Proof

@[simp] theorem Reg.ofCode_code (r : Reg) : Reg.ofCode r.code = some r := by cases r <;> decide

@[simp] theorem ModeTag.ofCode_code (t : ModeTag) : ModeTag.ofCode t.code = some t := by cases t <;> decide

@[simp] theorem WSel.ofCode_code (ws : WSel) : WSel.ofCode ws.code = ws := by cases ws <;> decide

@[simp] theorem Cmd.ofCode_code (c : Cmd) : Cmd.ofCode c.code = some c := by cases c <;> decide

theorem Reg.code_of_ofCode : ∀ (c : BitVec 4) (r : Reg), Reg.ofCode c = some r → r.code = c := by decide

theorem ModeTag.code_of_ofCode : ∀ (c : BitVec 5) (t : ModeTag), ModeTag.ofCode c = some t → t.code = c := by
  decide

theorem WSel.code_ofCode : ∀ c : BitVec 2, (WSel.ofCode c).code = c := by decide

theorem Cmd.code_of_ofCode : ∀ (c : BitVec 4) (k : Cmd), Cmd.ofCode c = some k → k.code = c := by decide

section Fields

variable (cmd : BitVec 4) (mode : BitVec 5) (wsel : BitVec 2) (reg : BitVec 4) (op : BitVec 24) (data : BitVec 16)

@[simp] theorem cmdField_packWord : cmdField (packWord cmd mode wsel reg op data) = cmd := by
  ext i h
  simp only [cmdField, packWord, BitVec.getElem_extractLsb', BitVec.getLsbD_or, BitVec.getLsbD_shiftLeft, BitVec.getLsbD_setWidth]
  interval_cases i <;> simp

@[simp] theorem modeField_packWord : modeField (packWord cmd mode wsel reg op data) = mode := by
  ext i h
  simp only [modeField, packWord, BitVec.getElem_extractLsb', BitVec.getLsbD_or, BitVec.getLsbD_shiftLeft, BitVec.getLsbD_setWidth]
  interval_cases i <;> simp

@[simp] theorem wselField_packWord : wselField (packWord cmd mode wsel reg op data) = wsel := by
  ext i h
  simp only [wselField, packWord, BitVec.getElem_extractLsb', BitVec.getLsbD_or, BitVec.getLsbD_shiftLeft, BitVec.getLsbD_setWidth]
  interval_cases i <;> simp

@[simp] theorem regField_packWord : regField (packWord cmd mode wsel reg op data) = reg := by
  ext i h
  simp only [regField, packWord, BitVec.getElem_extractLsb', BitVec.getLsbD_or, BitVec.getLsbD_shiftLeft, BitVec.getLsbD_setWidth]
  interval_cases i <;> simp

@[simp] theorem opField_packWord : opField (packWord cmd mode wsel reg op data) = op := by
  ext i h
  simp only [opField, packWord, BitVec.getElem_extractLsb', BitVec.getLsbD_or, BitVec.getLsbD_shiftLeft, BitVec.getLsbD_setWidth]
  interval_cases i <;> simp

@[simp] theorem dataField_packWord : dataField (packWord cmd mode wsel reg op data) = data := by
  ext i h
  simp only [dataField, packWord, BitVec.getElem_extractLsb', BitVec.getLsbD_or, BitVec.getLsbD_shiftLeft, BitVec.getLsbD_setWidth]
  interval_cases i <;> simp

end Fields

/-- Every bit of a packed word, by the field it is in (R64). -/
theorem packWord_getLsbD (cmd : BitVec 4) (mode : BitVec 5) (wsel : BitVec 2) (reg : BitVec 4) (op : BitVec 24)
    (data : BitVec 16) (i : Nat) (hi : i < 64) :
    (packWord cmd mode wsel reg op data).getLsbD i =
      if i < 4 then cmd.getLsbD i else if i < 9 then mode.getLsbD (i - 4) else if i < 11 then wsel.getLsbD (i - 9)
      else if i < 15 then reg.getLsbD (i - 11) else if i < 16 then false else if i < 40 then op.getLsbD (i - 16)
      else if i < 56 then data.getLsbD (i - 40) else false := by
  simp only [packWord, BitVec.getLsbD_or, BitVec.getLsbD_shiftLeft, BitVec.getLsbD_setWidth]
  interval_cases i <;> simp

/-- A packed word as a number: each field times its place (R64). -/
theorem packWord_eq_ofNat (cmd : BitVec 4) (mode : BitVec 5) (wsel : BitVec 2) (reg : BitVec 4) (op : BitVec 24)
    (data : BitVec 16) :
    packWord cmd mode wsel reg op data =
      BitVec.ofNat 64 (cmd.toNat + mode.toNat * 2 ^ 4 + wsel.toNat * 2 ^ 9 + reg.toNat * 2 ^ 11 + op.toNat * 2 ^ 16 +
        data.toNat * 2 ^ 40) := by
  have push : ∀ a b n : Nat, a < 2 ^ n → a ||| b <<< n = a + b * 2 ^ n := by
    intro a b n h
    rw [Nat.or_comm, ← Nat.shiftLeft_add_eq_or_of_lt h, Nat.shiftLeft_eq, Nat.add_comm]
  have place : ∀ {k : Nat} (v : BitVec k) (n : Nat), k + n ≤ 64 → (v.setWidth 64 <<< n).toNat = v.toNat <<< n := by
    intro k v n h
    have : v.toNat * 2 ^ n < 2 ^ 64 :=
      calc v.toNat * 2 ^ n < 2 ^ k * 2 ^ n := Nat.mul_lt_mul_of_pos_right v.isLt (Nat.two_pow_pos n)
        _ = 2 ^ (k + n) := (Nat.pow_add 2 k n).symm
        _ ≤ 2 ^ 64 := Nat.pow_le_pow_right (by decide) h
    have hv : v.toNat < 2 ^ 64 := v.isLt.trans_le (Nat.pow_le_pow_right (by decide) (by omega))
    rw [BitVec.toNat_shiftLeft, BitVec.toNat_setWidth, Nat.mod_eq_of_lt hv, Nat.shiftLeft_eq, Nat.mod_eq_of_lt this]
  have := cmd.isLt; have := mode.isLt; have := wsel.isLt; have := reg.isLt; have := op.isLt; have := data.isLt
  apply BitVec.eq_of_toNat_eq
  unfold packWord
  simp only [BitVec.toNat_or, place mode 4 (by decide), place wsel 9 (by decide), place reg 11 (by decide),
    place op 16 (by decide), place data 40 (by decide)]
  rw [push _ _ 4 (by simp; omega), push _ _ 9 (by simp; omega), push _ _ 11 (by simp; omega),
    push _ _ 16 (by simp; omega), push _ _ 40 (by simp; omega)]
  simp
  omega

/-- Masking distributes over the fields of a packed word, each mask being a packed word with reserved bits. -/
theorem packWord_and_mask (cmd cmd' : BitVec 4) (mode mode' : BitVec 5) (wsel wsel' : BitVec 2)
    (reg reg' : BitVec 4) (op op' : BitVec 24) (data data' : BitVec 16) :
    packWord cmd mode wsel reg op data &&& (reservedBits ||| packWord cmd' mode' wsel' reg' op' data') =
      packWord (cmd &&& cmd') (mode &&& mode') (wsel &&& wsel') (reg &&& reg') (op &&& op') (data &&& data') := by
  ext i h
  simp only [packWord, reservedBits, BitVec.getElem_and, BitVec.getElem_or, BitVec.getElem_shiftLeft,
    BitVec.getElem_setWidth]
  interval_cases i <;> simp

/-- A packed word whose unused fields are zero has no bit set that must be zero. -/
theorem packWord_and_mustBeZero (c : Cmd) {mode : BitVec 5} {wsel : BitVec 2} {reg : BitVec 4} {op : BitVec 24}
    {data : BitVec 16} (hm : c.usesMode = false → mode = 0) (hw : c.usesWsel = false → wsel = 0)
    (hr : c.usesReg = false → reg = 0) (ho : c.usesOp = false → op = 0) (hd : c.usesData = false → data = 0) :
    packWord c.code mode wsel reg op data &&& c.mustBeZero = 0 := by
  rw [Cmd.mustBeZero, packWord_and_mask]
  cases c <;>
    simp_all [Cmd.usesMode, Cmd.usesWsel, Cmd.usesReg, Cmd.usesOp, Cmd.usesData] <;> rfl

/-- Where `firstIndexFrom` stops, `p` holds if it holds anywhere in the range, and it holds nowhere before. -/
theorem firstIndexFrom_spec (p : Nat → Bool) (i n : Nat) :
    i ≤ firstIndexFrom p i n ∧ firstIndexFrom p i n ≤ i + n ∧
      (firstIndexFrom p i n < i + n → p (firstIndexFrom p i n) = true) ∧
      ∀ j, i ≤ j → j < firstIndexFrom p i n → p j = false := by
  induction n generalizing i with
  | zero => exact ⟨le_refl i, le_refl i, fun h => absurd h (lt_irrefl i), fun j h h' => absurd h' (by simpa [firstIndexFrom] using h)⟩
  | succ n ih =>
    unfold firstIndexFrom
    split
    · next hp => exact ⟨le_refl i, by omega, fun _ => hp, fun j h h' => absurd h' (by omega)⟩
    · next hp =>
      obtain ⟨h1, h2, h3, h4⟩ := ih (i + 1)
      refine ⟨by omega, by omega, fun h => h3 (by omega), fun j hj hlt => ?_⟩
      rcases Nat.eq_or_lt_of_le hj with rfl | hlt'
      · simpa using hp
      · exact h4 j hlt' hlt

/-- `lowestSetBit` is the lowest set bit: any index that is set with none set below it. -/
theorem lowestSetBit_eq {n : Nat} (v : BitVec n) (k : Nat) (hk : v.getLsbD k = true)
    (hlow : ∀ j < k, v.getLsbD j = false) : lowestSetBit v = k := by
  obtain ⟨-, h2, h3, h4⟩ := firstIndexFrom_spec v.getLsbD 0 n
  have hkn : k < n := BitVec.lt_of_getLsbD hk
  unfold lowestSetBit
  rcases Nat.lt_trichotomy (firstIndexFrom v.getLsbD 0 n) k with h | h | h
  · exact absurd (h3 (by omega)) (by simp [hlow _ h])
  · exact h
  · exact absurd (h4 k (Nat.zero_le k) h) (by simp [hk])

end Sys2Proof
end

