-- ==== Sys2Proof/Laws/Address.lean ====
section
/-! SUPPORT. Addresses, banks and offsets as numbers, and the data range checks. -/

namespace Sys2Proof.Machine

theorem a24_toNat (b : Byte) (o : Word) : (a24 b o).toNat = b.toNat * 0x10000 + o.toNat := by
  unfold a24
  rw [BitVec.toNat_append, ← Nat.shiftLeft_add_eq_or_of_lt o.isLt, Nat.shiftLeft_eq]

theorem bankOf_toNat (a : Addr) : (bankOf a).toNat = a.toNat / 0x10000 := by
  have := a.isLt
  simp only [bankOf, BitVec.extractLsb'_toNat, Nat.shiftRight_eq_div_pow]
  omega

theorem offOf_toNat (a : Addr) : (offOf a).toNat = a.toNat % 0x10000 := by
  simp [offOf]

@[simp] theorem bankOf_a24 (b : Byte) (o : Word) : bankOf (a24 b o) = b := by
  apply BitVec.eq_of_toNat_eq
  have := o.isLt
  rw [bankOf_toNat, a24_toNat]
  omega

@[simp] theorem offOf_a24 (b : Byte) (o : Word) : offOf (a24 b o) = o := by
  apply BitVec.eq_of_toNat_eq
  have := o.isLt
  rw [offOf_toNat, a24_toNat]
  omega

/-- An address is its bank and its offset (R10). -/
@[simp] theorem a24_bankOf_offOf (a : Addr) : a24 (bankOf a) (offOf a) = a := by
  apply BitVec.eq_of_toNat_eq
  rw [a24_toNat, bankOf_toNat, offOf_toNat]
  omega

theorem a24_inj {b c : Byte} {o p : Word} : a24 b o = a24 c p ↔ b = c ∧ o = p := by
  refine ⟨fun h => ⟨?_, ?_⟩, fun ⟨h, h'⟩ => h ▸ h' ▸ rfl⟩
  · simpa using congrArg bankOf h
  · simpa using congrArg offOf h

/-- A value fits in `n` bits exactly when it is below `2 ^ n`. -/
theorem fitsIn_iff {v : Word} {n : Nat} : fitsIn v n = true ↔ v.toNat < 2 ^ n := by
  simp [fitsIn]

/-- A value with a bit set at index `k ≥ n` does not fit in `n` bits. -/
theorem fitsIn_eq_false {v : Word} {n k : Nat} (hn : n ≤ k) (hk : v.getLsbD k = true) : fitsIn v n = false := by
  by_contra h
  rw [Bool.not_eq_false, fitsIn_iff] at h
  have : v.toNat.testBit k = false := Nat.testBit_lt_two_pow (h.trans_le (Nat.pow_le_pow_right (by omega) hn))
  rw [BitVec.testBit_toNat, hk] at this
  cases this

/-- A range fault reports the word index of the lowest set bit above the allowed ones (R72). -/
theorem dataRangeFault_eq {v : Word} {n k : Nat} (hn : n ≤ k) (hk : v.getLsbD k = true)
    (hlow : ∀ j < k, n ≤ j → v.getLsbD j = false) :
    dataRangeFault v n = ⟨.reservedBitsSet, BitVec.ofNat 8 (40 + k)⟩ := by
  have h : lowestSetBit (v >>> n) = k - n := by
    apply lowestSetBit_eq
    · simpa [Nat.add_sub_cancel' hn] using hk
    · intro j hj
      simpa using hlow (n + j) (by omega) (by omega)
  unfold dataRangeFault
  rw [h, show 40 + n + (k - n) = 40 + k by omega]

end Sys2Proof.Machine
end

