-- ==== Sys2Proof/Laws/Exec.lean ====
section
/-! SUPPORT. What each shared operation can do, once: later proofs cite these instead of unfolding it. -/

namespace Sys2Proof.Machine

@[simp] theorem whenRunning_of_running {s : State} {r : Result} (h : s.Running) : whenRunning s r = r := if_pos h

@[simp] theorem whenRunning_of_faulted {s : State} {r : Result} (h : ¬s.Running) : whenRunning s r = .next s :=
  if_neg h

/-- A command gated by the fault register either executes in a running state or changes nothing (R215). -/
theorem whenRunning_cases {s t : State} {r : Result} (h : whenRunning s r = .next t) :
    (s.Running ∧ r = .next t) ∨ (¬s.Running ∧ t = s) := by
  unfold whenRunning at h
  split at h
  · next hs => exact .inl ⟨hs, h⟩
  · next hs => exact .inr ⟨hs, (Host.Outcome.next.inj h).symm⟩

/-- A rejected word records its fault in a running state and changes nothing in a faulted one. -/
theorem rejectWord_cases {s t : State} {f : FaultReg} (h : rejectWord f s = .next t) :
    (s.Running ∧ t = s.raise f) ∨ (¬s.Running ∧ t = s) := by
  rcases whenRunning_cases h with ⟨hs, h⟩ | h
  · exact .inl ⟨hs, (Host.Outcome.next.inj h).symm⟩
  · exact .inr h

/-- `RESOLVE` in a running state either records the mode rule's fault or completes with its result. -/
theorem resolveWith_cases {t : ModeTag} {rule : ModeRule} {ws : WSel} {op : BitVec 24} {s u : State}
    (h : resolveWith t rule ws op s = .next u) :
    (s.Running ∧ ∃ f, rule s (widthOf s ws) op = .error f ∧ u = s.raise f) ∨
    (s.Running ∧ ∃ r, rule s (widthOf s ws) op = .ok r ∧ u = completeResolve s t (widthOf s ws) r) ∨
    (¬s.Running ∧ u = s) := by
  rcases whenRunning_cases h with ⟨hs, h⟩ | h
  · split at h
    · next f hf => exact .inl ⟨hs, f, hf, (Host.Outcome.next.inj h).symm⟩
    · next r hr => exact .inr (.inl ⟨hs, r, hr, (Host.Outcome.next.inj h).symm⟩)
  · exact .inr (.inr h)

theorem resolveWith_of_ok {t : ModeTag} {rule : ModeRule} {ws : WSel} {op : BitVec 24} {s : State}
    {r : ModeResult} (hs : s.Running) (h : rule s (widthOf s ws) op = .ok r) :
    resolveWith t rule ws op s = .next (completeResolve s t (widthOf s ws) r) := by
  simp only [resolveWith, h]
  exact whenRunning_of_running hs

theorem resolveWith_of_error {t : ModeTag} {rule : ModeRule} {ws : WSel} {op : BitVec 24} {s : State}
    {f : FaultReg} (hs : s.Running) (h : rule s (widthOf s ws) op = .error f) :
    resolveWith t rule ws op s = .next (s.raise f) := by
  simp only [resolveWith, h]
  exact whenRunning_of_running hs

/-- A step of a state with a command pending decodes its oldest word. -/
theorem step_of_pending {s : State} {w : Command} {rest : List Command} (h : s.commands = w :: rest) :
    step s = match decode w with
      | .ok i => exec i { s with commands := rest }
      | .error f => rejectWord f { s with commands := rest } := by
  have hn : nextCommand s = some (w, { s with commands := rest }) := by simp [nextCommand, h]
  cases hd : decode w <;> simp only [step, hn, hd]

/-- Everything a step can do: nothing, run the decoded command, or reject the word. -/
theorem step_cases {s t : State} (h : step s = .next t) :
    (s.commands = [] ∧ t = s) ∨
    (∃ w rest i, s.commands = w :: rest ∧ decode w = .ok i ∧ exec i { s with commands := rest } = .next t) ∨
    (∃ w rest f, s.commands = w :: rest ∧ decode w = .error f ∧
      rejectWord f { s with commands := rest } = .next t) := by
  cases hc : s.commands with
  | nil =>
    refine .inl ⟨rfl, ?_⟩
    simpa [step, nextCommand, hc, eq_comm] using h
  | cons w rest =>
    rw [step_of_pending hc] at h
    split at h
    · next i hi => exact .inr (.inl ⟨w, rest, i, rfl, hi, h⟩)
    · next f hf => exact .inr (.inr ⟨w, rest, f, rfl, hf, h⟩)

/-- An index read gives the register's value when it holds one that fits the index width. -/
theorem indexValue_of_some {s : State} {r : Reg} {v : Word} (h : s.flagXF = true → v.extractLsb' 8 8 = 0) :
    indexValue s r (some v) = .ok v := by
  unfold indexValue
  cases hx : s.flagXF with
  | false => simp
  | true =>
    have hv := h hx
    simp only [hv, if_true, ne_eq, not_true, if_false]
    congr 1
    apply BitVec.eq_of_toNat_eq
    have := congrArg BitVec.toNat hv
    simp [BitVec.extractLsb'_toNat, Nat.shiftRight_eq_div_pow] at this ⊢
    omega

/-- The ways an index read fails, in order (R130, R213). -/
theorem indexValue_error {s : State} {r : Reg} {v : Option Word} {f : FaultReg} (h : indexValue s r v = .error f) :
    (v = none ∧ f = undefinedRegister r) ∨
    (∃ w, v = some w ∧ s.flagXF = true ∧ w.extractLsb' 8 8 ≠ 0 ∧ f = indexWidthIncoherent r) := by
  cases v with
  | none => exact .inl ⟨rfl, (Except.error.inj h).symm⟩
  | some w =>
    simp only [indexValue] at h
    split at h
    · next hx =>
      split at h
      · next hw => exact .inr ⟨w, rfl, hx, hw, (Except.error.inj h).symm⟩
      · cases h
    · cases h

/-- The mode rule of a tag (R67). -/
def ruleOf : ModeTag → ModeRule
  | .imp => modeImp | .imm => modeImm | .abs => modeAbs | .absJmp => modeAbsJmp
  | .absX => absIndexed indexX | .absY => absIndexed indexY | .absInd => modeAbsInd | .absXInd => modeAbsXInd
  | .dp => modeDp | .dpX => directIndexed indexX | .dpY => directIndexed indexY
  | .dpInd => modeDpInd | .dpIndL => modeDpIndL | .dpXInd => modeDpXInd | .dpIndY => modeDpIndY
  | .dpIndLY => modeDpIndLY | .absL => modeAbsL | .absLX => modeAbsLX | .sr => modeSr | .srIndY => modeSrIndY

/-- Every `RESOLVE` runs the mode rule of its tag (R137). -/
theorem exec_resolveInstr (t : ModeTag) (ws : WSel) (op : BitVec 24) (s : State) :
    exec (resolveInstr t ws op) s = resolveWith t (ruleOf t) ws op s := by
  cases t <;> rfl

theorem definedValue_error {r : Reg} {v : Option Word} {f : FaultReg} (h : definedValue r v = .error f) :
    v = none ∧ f = undefinedRegister r := by
  unfold definedValue at h
  split at h <;> cases h
  exact ⟨rfl, rfl⟩

theorem zext64_error {n : Nat} {v : Except FaultReg (BitVec n)} {f : FaultReg} (h : zext64 v = .error f) :
    v = .error f := by
  unfold zext64 at h
  split at h <;> cases h
  rfl

/-- A register read fails only for want of a value (R35). -/
theorem readReg_error {s : State} {r : Reg} {f : FaultReg} (h : readReg s r = .error f) : f = undefinedRegister r := by
  cases r <;> simp only [readReg] at h <;> first | exact (definedValue_error (zext64_error h)).2 | cases h

/-- What a mode rule raises is a register without a value or an incoherent index register (R130, R172). -/
theorem ruleOf_error {t : ModeTag} {s : State} {w : Width} {op : BitVec 24} {f : FaultReg}
    (h : ruleOf t s w op = .error f) : f.code = .undefinedRegister ∨ f.code = .indexWidthIncoherent := by
  have hi : ∀ {r v f}, indexValue s r v = .error f → f.code = .undefinedRegister ∨ f.code = .indexWidthIncoherent := by
    intro r v f h
    rcases indexValue_error h with ⟨-, rfl⟩ | ⟨w, -, -, -, rfl⟩
    · exact .inl rfl
    · exact .inr rfl
  have hs : ∀ {f}, stackAddr s op = .error f → f.code = .undefinedRegister := by
    intro f h
    unfold stackAddr at h
    split at h <;> cases h
    next hd => rw [(definedValue_error hd).2]; rfl
  cases t <;>
    simp only [ruleOf, modeImp, modeImm, modeAbs, modeAbsJmp, absIndexed, modeAbsInd, modeAbsXInd, modeDp,
      directIndexed, modeDpInd, modeDpIndL, modeDpXInd, modeDpIndY, modeDpIndLY, modeAbsL, modeAbsLX, modeSr,
      modeSrIndY] at h <;>
    repeat' split at h
  all_goals first
    | (cases h; done)
    | (cases h; next hf => exact hi hf)
    | (cases h; next hf => exact .inl (hs hf))

/-- What a command leaves behind: the state as it was, under a recorded fault; the reset state; a fault recorded and
nothing else; a response; a register, data or the program counter written; or a completed `RESOLVE`. -/
inductive Effect (i : Instr) (s : State) : State → Prop where
  | ignored : ¬s.Running → i ≠ .reset → Effect i s s
  | reset : i = .reset → Effect i s s.applyReset
  | raised (f : FaultReg) : s.Running → i ≠ .reset → f.code ≠ .none → Effect i s (s.raise f)
  | responded (v : BitVec 64) : s.Running → i ≠ .reset → Effect i s (s.respond v)
  | storedReg (r : Reg) (v : Word) : s.Running → i = .writeReg r v → r ≠ .cyc →
      Effect i s ((storeReg s r v).respond 0)
  | storedData (w : Width) (lo hi : Addr) (v : Word) : s.Running → i ≠ .reset →
      Effect i s ((writeData s w lo hi v).respond 0)
  | resolved (t : ModeTag) (ws : WSel) (op : BitVec 24) (r : ModeResult) : s.Running → i = resolveInstr t ws op →
      ruleOf t s (widthOf s ws) op = .ok r → Effect i s (completeResolve s t (widthOf s ws) r)
  | committed (v : Word) : s.Running → i = .commitPc → Effect i s (commitTo s v)

theorem effect_resolve {t : ModeTag} {ws : WSel} {op : BitVec 24} {s u : State}
    (h : exec (resolveInstr t ws op) s = .next u) : Effect (resolveInstr t ws op) s u := by
  have hi : resolveInstr t ws op ≠ .reset := by cases t <;> exact Instr.noConfusion
  rw [exec_resolveInstr] at h
  rcases resolveWith_cases h with ⟨hs, f, hf, rfl⟩ | ⟨hs, r, hr, rfl⟩ | ⟨hs, rfl⟩
  · refine .raised f hs hi ?_
    rcases ruleOf_error hf with h | h <;> rw [h] <;> exact FaultCode.noConfusion
  · exact .resolved t ws op r hs rfl hr
  · exact .ignored hs hi

/-- Everything a command can do. -/
theorem exec_effect {i : Instr} {s t : State} (h : exec i s = .next t) : Effect i s t := by
  have gate : ∀ {r : Result}, i ≠ .reset → whenRunning s r = .next t → (s.Running → r = .next t → Effect i s t) →
      Effect i s t := by
    intro r hi h hr
    rcases whenRunning_cases h with ⟨hs, h⟩ | ⟨hs, rfl⟩
    · exact hr hs h
    · exact .ignored hs hi
  cases i with
  | reset => cases h; exact .reset rfl
  | readReg r =>
    refine gate Instr.noConfusion h fun hs h => ?_
    split at h <;> cases h
    · next hf => exact .raised _ hs Instr.noConfusion (by rw [readReg_error hf]; exact FaultCode.noConfusion)
    · exact .responded _ hs Instr.noConfusion
  | writeReg r v =>
    refine gate Instr.noConfusion h fun hs h => ?_
    split at h
    · cases h; exact .raised _ hs Instr.noConfusion FaultCode.noConfusion
    · next hr =>
      split at h <;> cases h
      · exact .storedReg r v hs rfl hr
      · exact .raised _ hs Instr.noConfusion FaultCode.noConfusion
  | readByte a => exact gate Instr.noConfusion h fun hs h => by cases h; exact .responded _ hs Instr.noConfusion
  | writeByte a v =>
    refine gate Instr.noConfusion h fun hs h => ?_
    split at h <;> cases h
    · exact .storedData .byte a a v hs Instr.noConfusion
    · exact .raised _ hs Instr.noConfusion FaultCode.noConfusion
  | readOperand a ws => exact gate Instr.noConfusion h fun hs h => by cases h; exact .responded _ hs Instr.noConfusion
  | writeOperand a ws v =>
    refine gate Instr.noConfusion h fun hs h => ?_
    split at h <;> cases h
    · exact .raised _ hs Instr.noConfusion FaultCode.noConfusion
    · exact .storedData _ _ _ v hs Instr.noConfusion
  | loadEa =>
    refine gate Instr.noConfusion h fun hs h => ?_
    split at h <;> cases h
    · exact .responded _ hs Instr.noConfusion
    · exact .responded _ hs Instr.noConfusion
    all_goals exact .raised _ hs Instr.noConfusion FaultCode.noConfusion
  | storeEa v =>
    refine gate Instr.noConfusion h fun hs h => ?_
    split at h
    · cases h; exact .raised _ hs Instr.noConfusion FaultCode.noConfusion
    · split at h <;> cases h
      · exact .raised _ hs Instr.noConfusion FaultCode.noConfusion
      · exact .storedData _ _ _ v hs Instr.noConfusion
  | commitPc =>
    refine gate Instr.noConfusion h fun hs h => ?_
    split at h
    · cases h; exact .raised _ hs Instr.noConfusion FaultCode.noConfusion
    · cases h; exact .committed _ hs rfl
    all_goals
      split at h <;> cases h
      · next hf => exact .raised _ hs Instr.noConfusion (by rw [(definedValue_error hf).2]; exact FaultCode.noConfusion)
      · exact .committed _ hs rfl
  | resolveImp ws op => exact effect_resolve (t := .imp) h
  | resolveImm ws op => exact effect_resolve (t := .imm) h
  | resolveAbs ws op => exact effect_resolve (t := .abs) h
  | resolveAbsJmp ws op => exact effect_resolve (t := .absJmp) h
  | resolveAbsX ws op => exact effect_resolve (t := .absX) h
  | resolveAbsY ws op => exact effect_resolve (t := .absY) h
  | resolveAbsInd ws op => exact effect_resolve (t := .absInd) h
  | resolveAbsXInd ws op => exact effect_resolve (t := .absXInd) h
  | resolveDp ws op => exact effect_resolve (t := .dp) h
  | resolveDpX ws op => exact effect_resolve (t := .dpX) h
  | resolveDpY ws op => exact effect_resolve (t := .dpY) h
  | resolveDpInd ws op => exact effect_resolve (t := .dpInd) h
  | resolveDpIndL ws op => exact effect_resolve (t := .dpIndL) h
  | resolveDpXInd ws op => exact effect_resolve (t := .dpXInd) h
  | resolveDpIndY ws op => exact effect_resolve (t := .dpIndY) h
  | resolveDpIndLY ws op => exact effect_resolve (t := .dpIndLY) h
  | resolveAbsL ws op => exact effect_resolve (t := .absL) h
  | resolveAbsLX ws op => exact effect_resolve (t := .absLX) h
  | resolveSr ws op => exact effect_resolve (t := .sr) h
  | resolveSrIndY ws op => exact effect_resolve (t := .srIndY) h

end Sys2Proof.Machine
end

