-- ==== Sys2Proof/Laws/Memory.lean ====
section
/-! SUPPORT. The laws of memory: the canonical form is kept by every operation, a write is read back, and every other
byte is left alone. -/

namespace Sys2Proof.Machine

@[simp] theorem readAt_nil (a : Nat) : readAt [] a = blankByte := rfl

theorem readAt_cons (k : Nat) (b : Byte) (m : Memory) (a : Nat) :
    readAt ((k, b) :: m) a = if k = a then b else readAt m a := rfl

theorem wfFrom_cons (lo k : Nat) (b : Byte) (m : Memory) :
    Memory.wfFrom lo ((k, b) :: m) = true ↔
      lo ≤ k ∧ k < 2 ^ 24 ∧ b ≠ blankByte ∧ Memory.wfFrom (k + 1) m = true := by
  simp [Memory.wfFrom, and_assoc]

/-- A canonical memory from `hi` up is one from any lower bound up. -/
theorem wfFrom_mono {lo hi : Nat} (h : lo ≤ hi) {m : Memory} (hm : Memory.wfFrom hi m = true) :
    Memory.wfFrom lo m = true := by
  cases m with
  | nil => rfl
  | cons c m =>
    obtain ⟨k, b⟩ := c
    rw [wfFrom_cons] at hm ⊢
    exact ⟨h.trans hm.1, hm.2⟩

/-- Below its lower bound a canonical memory reads blank. -/
theorem readAt_below {lo a : Nat} {m : Memory} (hm : Memory.wfFrom lo m = true) (ha : a < lo) :
    readAt m a = blankByte := by
  induction m generalizing lo with
  | nil => rfl
  | cons c m ih =>
    obtain ⟨k, b⟩ := c
    rw [wfFrom_cons] at hm
    rw [readAt_cons, if_neg (by omega), ih hm.2.2.2 (by omega)]

theorem wfFrom_consCell {lo a : Nat} {v : Byte} {m : Memory} (ha : lo ≤ a) (ha' : a < 2 ^ 24)
    (hm : Memory.wfFrom (a + 1) m = true) : Memory.wfFrom lo (consCell a v m) = true := by
  unfold consCell
  split
  · exact wfFrom_mono (by omega) hm
  · next hv => exact (wfFrom_cons ..).2 ⟨ha, ha', hv, hm⟩

/-- Reading past a cell that may have been left out because it is blank. -/
theorem readAt_consCell {a x : Nat} {v : Byte} {m : Memory} (hm : Memory.wfFrom (a + 1) m = true) :
    readAt (consCell a v m) x = if a = x then v else readAt m x := by
  unfold consCell
  split
  · next hv =>
    split
    · next hx => rw [hv, readAt_below hm (by omega)]
    · rfl
  · exact readAt_cons ..

theorem wfFrom_writeAt {lo a : Nat} {v : Byte} {m : Memory} (hm : Memory.wfFrom lo m = true) (ha : lo ≤ a)
    (ha' : a < 2 ^ 24) : Memory.wfFrom lo (writeAt m a v) = true := by
  induction m generalizing lo with
  | nil => exact wfFrom_consCell ha ha' rfl
  | cons c m ih =>
    obtain ⟨k, b⟩ := c
    have h := (wfFrom_cons ..).1 hm
    unfold writeAt
    split
    · exact wfFrom_consCell ha ha' ((wfFrom_cons ..).2 ⟨by omega, h.2⟩)
    · split
      · next hak => exact wfFrom_consCell ha ha' (hak ▸ h.2.2.2)
      · exact (wfFrom_cons ..).2 ⟨h.1, h.2.1, h.2.2.1, ih h.2.2.2 (by omega)⟩

/-- Writing keeps the canonical form. -/
theorem wf_writeAt {a : Nat} {v : Byte} {m : Memory} (hm : m.wf = true) (ha : a < 2 ^ 24) :
    Memory.wf (writeAt m a v) = true :=
  wfFrom_writeAt hm (Nat.zero_le a) ha

theorem readAt_writeAt_from {lo a x : Nat} {v : Byte} {m : Memory} (hm : Memory.wfFrom lo m = true) :
    readAt (writeAt m a v) x = if a = x then v else readAt m x := by
  induction m generalizing lo with
  | nil => exact readAt_consCell rfl
  | cons c m ih =>
    obtain ⟨k, b⟩ := c
    have h := (wfFrom_cons ..).1 hm
    unfold writeAt
    split
    · exact readAt_consCell ((wfFrom_cons ..).2 ⟨by omega, h.2⟩)
    · split
      · next hak =>
        rw [readAt_consCell (hak ▸ h.2.2.2), readAt_cons]
        split <;> simp_all
      · next hak =>
        rw [readAt_cons, ih h.2.2.2, readAt_cons]
        split
        · next hk => rw [if_neg (by omega)]
        · rfl

/-- A byte reads as last written, and every other byte as before (R51). -/
theorem readAt_writeAt {a x : Nat} {v : Byte} {m : Memory} (hm : m.wf = true) :
    readAt (writeAt m a v) x = if a = x then v else readAt m x :=
  readAt_writeAt_from hm

/-- R51 over states. -/
theorem memRead_memWrite {s : State} {a b : Addr} {v : Byte} (hm : s.mem.wf = true) :
    memRead (memWrite s a v) b = if b = a then v else memRead s b := by
  unfold memRead memWrite
  rw [readAt_writeAt hm]
  simp only [BitVec.toNat_inj, eq_comm]

theorem memWrite_wf {s : State} {a : Addr} {v : Byte} (hm : s.mem.wf = true) : (memWrite s a v).mem.wf = true :=
  wf_writeAt hm a.isLt

/-- A write of data changes memory only, keeps its canonical form, and changes the bytes it stores. -/
theorem writeData_spec {s : State} {w : Width} {lo hi : Addr} {v : Word} (hm : s.mem.wf = true) :
    writeData s w lo hi v = { s with mem := (writeData s w lo hi v).mem } ∧
    (writeData s w lo hi v).mem.wf = true ∧
    ∀ b, memRead (writeData s w lo hi v) b =
      if w = .word ∧ b = hi then v.extractLsb' 8 8
      else if b = lo then v.extractLsb' 0 8 else memRead s b := by
  cases w with
  | byte => exact ⟨rfl, memWrite_wf hm, fun b => by simp [writeData, memRead_memWrite hm]⟩
  | word =>
    refine ⟨rfl, memWrite_wf (memWrite_wf hm), fun b => ?_⟩
    simp [writeData, memRead_memWrite (memWrite_wf hm), memRead_memWrite hm]

/-- The memory of `State.reset` is canonical. -/
theorem reset_mem_wf : State.reset.mem.wf = true := rfl

end Sys2Proof.Machine
end

