-- ==== Sys2Proof/Laws/PerInstr.lean ====
section
/-! SUPPORT. Facts about every instruction as syntax. `TableRow`: its encoded word fits its row of
spec/opcode_table.json, the row's `mask` selecting its `match`. -/

namespace Sys2Proof.Laws

/-- The `mask` of an instruction's row of spec/opcode_table.json. -/
def rowMask : Instr → Command
  | .reset => 0xFFFFFFFFFFFFFFFF
  | .readReg _ => 0xFFFFFFFFFFFF87FF
  | .writeReg _ _ => 0xFF0000FFFFFF87FF
  | .readByte _ => 0xFFFFFF000000FFFF
  | .writeByte _ _ => 0xFF0000000000FFFF
  | .readOperand _ _ => 0xFFFFFF000000F9FF
  | .writeOperand _ _ _ => 0xFF0000000000F9FF
  | .resolveImp _ _ => 0xFFFFFF000000F9FF
  | .resolveImm _ _ => 0xFFFFFF000000F9FF
  | .resolveAbs _ _ => 0xFFFFFF000000F9FF
  | .resolveAbsJmp _ _ => 0xFFFFFF000000F9FF
  | .resolveAbsX _ _ => 0xFFFFFF000000F9FF
  | .resolveAbsY _ _ => 0xFFFFFF000000F9FF
  | .resolveAbsInd _ _ => 0xFFFFFF000000F9FF
  | .resolveAbsXInd _ _ => 0xFFFFFF000000F9FF
  | .resolveDp _ _ => 0xFFFFFF000000F9FF
  | .resolveDpX _ _ => 0xFFFFFF000000F9FF
  | .resolveDpY _ _ => 0xFFFFFF000000F9FF
  | .resolveDpInd _ _ => 0xFFFFFF000000F9FF
  | .resolveDpIndL _ _ => 0xFFFFFF000000F9FF
  | .resolveDpXInd _ _ => 0xFFFFFF000000F9FF
  | .resolveDpIndY _ _ => 0xFFFFFF000000F9FF
  | .resolveDpIndLY _ _ => 0xFFFFFF000000F9FF
  | .resolveAbsL _ _ => 0xFFFFFF000000F9FF
  | .resolveAbsLX _ _ => 0xFFFFFF000000F9FF
  | .resolveSr _ _ => 0xFFFFFF000000F9FF
  | .resolveSrIndY _ _ => 0xFFFFFF000000F9FF
  | .loadEa => 0xFFFFFFFFFFFFFFFF
  | .storeEa _ => 0xFF0000FFFFFFFFFF
  | .commitPc => 0xFFFFFFFFFFFFFFFF

/-- The `match` of an instruction's row of spec/opcode_table.json. -/
def rowMatch : Instr → Command
  | .reset => 0x0000000000000001
  | .readReg _ => 0x0000000000000002
  | .writeReg _ _ => 0x0000000000000003
  | .readByte _ => 0x0000000000000004
  | .writeByte _ _ => 0x0000000000000005
  | .readOperand _ _ => 0x0000000000000006
  | .writeOperand _ _ _ => 0x0000000000000007
  | .resolveImp _ _ => 0x0000000000000008
  | .resolveImm _ _ => 0x0000000000000018
  | .resolveAbs _ _ => 0x0000000000000028
  | .resolveAbsJmp _ _ => 0x0000000000000038
  | .resolveAbsX _ _ => 0x0000000000000048
  | .resolveAbsY _ _ => 0x0000000000000058
  | .resolveAbsInd _ _ => 0x0000000000000068
  | .resolveAbsXInd _ _ => 0x0000000000000078
  | .resolveDp _ _ => 0x0000000000000088
  | .resolveDpX _ _ => 0x0000000000000098
  | .resolveDpY _ _ => 0x00000000000000A8
  | .resolveDpInd _ _ => 0x00000000000000B8
  | .resolveDpIndL _ _ => 0x00000000000000C8
  | .resolveDpXInd _ _ => 0x00000000000000D8
  | .resolveDpIndY _ _ => 0x00000000000000E8
  | .resolveDpIndLY _ _ => 0x00000000000000F8
  | .resolveAbsL _ _ => 0x0000000000000108
  | .resolveAbsLX _ _ => 0x0000000000000118
  | .resolveSr _ _ => 0x0000000000000128
  | .resolveSrIndY _ _ => 0x0000000000000138
  | .loadEa => 0x0000000000000009
  | .storeEa _ => 0x000000000000000A
  | .commitPc => 0x000000000000000B

namespace TableRow

/-- The encoded word agrees with the instruction's table row on the bits the row fixes. -/
def Statement (i : Instr) : Prop := encode i &&& rowMask i = rowMatch i

/-- The row of every `RESOLVE` tag fixes all but `WSEL` and `OP`. -/
theorem of_tag (t : ModeTag) (ws : WSel) (op : BitVec 24) :
    encodeResolve t ws op &&& 0xFFFFFF000000F9FF = packWord Cmd.resolve.code t.code 0 0 0 0 := by
  rw [show (0xFFFFFF000000F9FF : Command) = reservedBits ||| packWord 0xF 0x1F 0 0xF 0 0xFFFF by decide]
  simp only [encodeResolve, packWord_and_mask]
  cases t <;> simp [Cmd.code, ModeTag.code]

theorem reset : Statement .reset := rfl

theorem readReg (r : Reg) : Statement (.readReg r) := by
  change packWord _ _ _ _ _ _ &&& 0xFFFFFFFFFFFF87FF = _
  rw [show (0xFFFFFFFFFFFF87FF : Command) = reservedBits ||| packWord 0xF 0x1F 3 0 0xFFFFFF 0xFFFF by decide,
    packWord_and_mask]
  simp [Cmd.code, rowMatch, packWord]

theorem writeReg (r : Reg) (v : Word) : Statement (.writeReg r v) := by
  change packWord _ _ _ _ _ _ &&& 0xFF0000FFFFFF87FF = _
  rw [show (0xFF0000FFFFFF87FF : Command) = reservedBits ||| packWord 0xF 0x1F 3 0 0xFFFFFF 0 by decide,
    packWord_and_mask]
  simp [Cmd.code, rowMatch, packWord]

theorem readByte (a : Addr) : Statement (.readByte a) := by
  change packWord _ _ _ _ _ _ &&& 0xFFFFFF000000FFFF = _
  rw [show (0xFFFFFF000000FFFF : Command) = reservedBits ||| packWord 0xF 0x1F 3 0xF 0 0xFFFF by decide,
    packWord_and_mask]
  simp [Cmd.code, rowMatch, packWord]

theorem writeByte (a : Addr) (v : Word) : Statement (.writeByte a v) := by
  change packWord _ _ _ _ _ _ &&& 0xFF0000000000FFFF = _
  rw [show (0xFF0000000000FFFF : Command) = reservedBits ||| packWord 0xF 0x1F 3 0xF 0 0 by decide,
    packWord_and_mask]
  simp [Cmd.code, rowMatch, packWord]

theorem readOperand (a : Addr) (ws : WSel) : Statement (.readOperand a ws) := by
  change packWord _ _ _ _ _ _ &&& 0xFFFFFF000000F9FF = _
  rw [show (0xFFFFFF000000F9FF : Command) = reservedBits ||| packWord 0xF 0x1F 0 0xF 0 0xFFFF by decide,
    packWord_and_mask]
  simp [Cmd.code, rowMatch, packWord]

theorem writeOperand (a : Addr) (ws : WSel) (v : Word) : Statement (.writeOperand a ws v) := by
  change packWord _ _ _ _ _ _ &&& 0xFF0000000000F9FF = _
  rw [show (0xFF0000000000F9FF : Command) = reservedBits ||| packWord 0xF 0x1F 0 0xF 0 0 by decide,
    packWord_and_mask]
  simp [Cmd.code, rowMatch, packWord]

theorem resolveImp (ws : WSel) (op : BitVec 24) : Statement (.resolveImp ws op) :=
  (of_tag ..).trans rfl

theorem resolveImm (ws : WSel) (op : BitVec 24) : Statement (.resolveImm ws op) :=
  (of_tag ..).trans rfl

theorem resolveAbs (ws : WSel) (op : BitVec 24) : Statement (.resolveAbs ws op) :=
  (of_tag ..).trans rfl

theorem resolveAbsJmp (ws : WSel) (op : BitVec 24) : Statement (.resolveAbsJmp ws op) :=
  (of_tag ..).trans rfl

theorem resolveAbsX (ws : WSel) (op : BitVec 24) : Statement (.resolveAbsX ws op) :=
  (of_tag ..).trans rfl

theorem resolveAbsY (ws : WSel) (op : BitVec 24) : Statement (.resolveAbsY ws op) :=
  (of_tag ..).trans rfl

theorem resolveAbsInd (ws : WSel) (op : BitVec 24) : Statement (.resolveAbsInd ws op) :=
  (of_tag ..).trans rfl

theorem resolveAbsXInd (ws : WSel) (op : BitVec 24) : Statement (.resolveAbsXInd ws op) :=
  (of_tag ..).trans rfl

theorem resolveDp (ws : WSel) (op : BitVec 24) : Statement (.resolveDp ws op) :=
  (of_tag ..).trans rfl

theorem resolveDpX (ws : WSel) (op : BitVec 24) : Statement (.resolveDpX ws op) :=
  (of_tag ..).trans rfl

theorem resolveDpY (ws : WSel) (op : BitVec 24) : Statement (.resolveDpY ws op) :=
  (of_tag ..).trans rfl

theorem resolveDpInd (ws : WSel) (op : BitVec 24) : Statement (.resolveDpInd ws op) :=
  (of_tag ..).trans rfl

theorem resolveDpIndL (ws : WSel) (op : BitVec 24) : Statement (.resolveDpIndL ws op) :=
  (of_tag ..).trans rfl

theorem resolveDpXInd (ws : WSel) (op : BitVec 24) : Statement (.resolveDpXInd ws op) :=
  (of_tag ..).trans rfl

theorem resolveDpIndY (ws : WSel) (op : BitVec 24) : Statement (.resolveDpIndY ws op) :=
  (of_tag ..).trans rfl

theorem resolveDpIndLY (ws : WSel) (op : BitVec 24) : Statement (.resolveDpIndLY ws op) :=
  (of_tag ..).trans rfl

theorem resolveAbsL (ws : WSel) (op : BitVec 24) : Statement (.resolveAbsL ws op) :=
  (of_tag ..).trans rfl

theorem resolveAbsLX (ws : WSel) (op : BitVec 24) : Statement (.resolveAbsLX ws op) :=
  (of_tag ..).trans rfl

theorem resolveSr (ws : WSel) (op : BitVec 24) : Statement (.resolveSr ws op) :=
  (of_tag ..).trans rfl

theorem resolveSrIndY (ws : WSel) (op : BitVec 24) : Statement (.resolveSrIndY ws op) :=
  (of_tag ..).trans rfl

theorem loadEa : Statement .loadEa := rfl

theorem storeEa (v : Word) : Statement (.storeEa v) := by
  change packWord _ _ _ _ _ _ &&& 0xFF0000FFFFFFFFFF = _
  rw [show (0xFF0000FFFFFFFFFF : Command) = reservedBits ||| packWord 0xF 0x1F 3 0xF 0xFFFFFF 0 by decide,
    packWord_and_mask]
  simp [Cmd.code, rowMatch, packWord]

theorem commitPc : Statement .commitPc := rfl

end TableRow

end Sys2Proof.Laws
end

