-- ==== Sys2Proof/Laws/State.lean ====
section
/-! SUPPORT. One lemma per field and state update: what the update makes of the field. -/

namespace Sys2Proof.Machine

variable (s : State)

/-! ### `memWrite` -/

@[simp] theorem memWrite_regA (a : Addr) (v : Byte) : (memWrite s a v).regA = s.regA := rfl
@[simp] theorem memWrite_regX (a : Addr) (v : Byte) : (memWrite s a v).regX = s.regX := rfl
@[simp] theorem memWrite_regY (a : Addr) (v : Byte) : (memWrite s a v).regY = s.regY := rfl
@[simp] theorem memWrite_regS (a : Addr) (v : Byte) : (memWrite s a v).regS = s.regS := rfl
@[simp] theorem memWrite_pc (a : Addr) (v : Byte) : (memWrite s a v).pc = s.pc := rfl
@[simp] theorem memWrite_regD (a : Addr) (v : Byte) : (memWrite s a v).regD = s.regD := rfl
@[simp] theorem memWrite_dbr (a : Addr) (v : Byte) : (memWrite s a v).dbr = s.dbr := rfl
@[simp] theorem memWrite_pbr (a : Addr) (v : Byte) : (memWrite s a v).pbr = s.pbr := rfl
@[simp] theorem memWrite_flagE (a : Addr) (v : Byte) : (memWrite s a v).flagE = s.flagE := rfl
@[simp] theorem memWrite_flagM (a : Addr) (v : Byte) : (memWrite s a v).flagM = s.flagM := rfl
@[simp] theorem memWrite_flagXF (a : Addr) (v : Byte) : (memWrite s a v).flagXF = s.flagXF := rfl
@[simp] theorem memWrite_cyc (a : Addr) (v : Byte) : (memWrite s a v).cyc = s.cyc := rfl
@[simp] theorem memWrite_mem (a : Addr) (v : Byte) : (memWrite s a v).mem = writeAt s.mem a.toNat v := rfl
@[simp] theorem memWrite_latch (a : Addr) (v : Byte) : (memWrite s a v).latch = s.latch := rfl
@[simp] theorem memWrite_fault (a : Addr) (v : Byte) : (memWrite s a v).fault = s.fault := rfl
@[simp] theorem memWrite_resp (a : Addr) (v : Byte) : (memWrite s a v).resp = s.resp := rfl
@[simp] theorem memWrite_params (a : Addr) (v : Byte) : (memWrite s a v).params = s.params := rfl
@[simp] theorem memWrite_commands (a : Addr) (v : Byte) : (memWrite s a v).commands = s.commands := rfl

/-! ### `respond` -/

@[simp] theorem respond_regA (v : BitVec 64) : (s.respond v).regA = s.regA := rfl
@[simp] theorem respond_regX (v : BitVec 64) : (s.respond v).regX = s.regX := rfl
@[simp] theorem respond_regY (v : BitVec 64) : (s.respond v).regY = s.regY := rfl
@[simp] theorem respond_regS (v : BitVec 64) : (s.respond v).regS = s.regS := rfl
@[simp] theorem respond_pc (v : BitVec 64) : (s.respond v).pc = s.pc := rfl
@[simp] theorem respond_regD (v : BitVec 64) : (s.respond v).regD = s.regD := rfl
@[simp] theorem respond_dbr (v : BitVec 64) : (s.respond v).dbr = s.dbr := rfl
@[simp] theorem respond_pbr (v : BitVec 64) : (s.respond v).pbr = s.pbr := rfl
@[simp] theorem respond_flagE (v : BitVec 64) : (s.respond v).flagE = s.flagE := rfl
@[simp] theorem respond_flagM (v : BitVec 64) : (s.respond v).flagM = s.flagM := rfl
@[simp] theorem respond_flagXF (v : BitVec 64) : (s.respond v).flagXF = s.flagXF := rfl
@[simp] theorem respond_cyc (v : BitVec 64) : (s.respond v).cyc = s.cyc := rfl
@[simp] theorem respond_mem (v : BitVec 64) : (s.respond v).mem = s.mem := rfl
@[simp] theorem respond_latch (v : BitVec 64) : (s.respond v).latch = s.latch := rfl
@[simp] theorem respond_fault (v : BitVec 64) : (s.respond v).fault = s.fault := rfl
@[simp] theorem respond_resp (v : BitVec 64) : (s.respond v).resp = v := rfl
@[simp] theorem respond_params (v : BitVec 64) : (s.respond v).params = s.params := rfl
@[simp] theorem respond_commands (v : BitVec 64) : (s.respond v).commands = s.commands := rfl

/-! ### `raise` -/

@[simp] theorem raise_regA (f : FaultReg) : (s.raise f).regA = s.regA := rfl
@[simp] theorem raise_regX (f : FaultReg) : (s.raise f).regX = s.regX := rfl
@[simp] theorem raise_regY (f : FaultReg) : (s.raise f).regY = s.regY := rfl
@[simp] theorem raise_regS (f : FaultReg) : (s.raise f).regS = s.regS := rfl
@[simp] theorem raise_pc (f : FaultReg) : (s.raise f).pc = s.pc := rfl
@[simp] theorem raise_regD (f : FaultReg) : (s.raise f).regD = s.regD := rfl
@[simp] theorem raise_dbr (f : FaultReg) : (s.raise f).dbr = s.dbr := rfl
@[simp] theorem raise_pbr (f : FaultReg) : (s.raise f).pbr = s.pbr := rfl
@[simp] theorem raise_flagE (f : FaultReg) : (s.raise f).flagE = s.flagE := rfl
@[simp] theorem raise_flagM (f : FaultReg) : (s.raise f).flagM = s.flagM := rfl
@[simp] theorem raise_flagXF (f : FaultReg) : (s.raise f).flagXF = s.flagXF := rfl
@[simp] theorem raise_cyc (f : FaultReg) : (s.raise f).cyc = s.cyc := rfl
@[simp] theorem raise_mem (f : FaultReg) : (s.raise f).mem = s.mem := rfl
@[simp] theorem raise_latch (f : FaultReg) : (s.raise f).latch = s.latch := rfl
@[simp] theorem raise_fault (f : FaultReg) : (s.raise f).fault = f := rfl
@[simp] theorem raise_resp (f : FaultReg) : (s.raise f).resp = s.resp := rfl
@[simp] theorem raise_params (f : FaultReg) : (s.raise f).params = s.params := rfl
@[simp] theorem raise_commands (f : FaultReg) : (s.raise f).commands = s.commands := rfl

/-! ### `setLatch` -/

@[simp] theorem setLatch_regA (l : Latch) : (s.setLatch l).regA = s.regA := rfl
@[simp] theorem setLatch_regX (l : Latch) : (s.setLatch l).regX = s.regX := rfl
@[simp] theorem setLatch_regY (l : Latch) : (s.setLatch l).regY = s.regY := rfl
@[simp] theorem setLatch_regS (l : Latch) : (s.setLatch l).regS = s.regS := rfl
@[simp] theorem setLatch_pc (l : Latch) : (s.setLatch l).pc = s.pc := rfl
@[simp] theorem setLatch_regD (l : Latch) : (s.setLatch l).regD = s.regD := rfl
@[simp] theorem setLatch_dbr (l : Latch) : (s.setLatch l).dbr = s.dbr := rfl
@[simp] theorem setLatch_pbr (l : Latch) : (s.setLatch l).pbr = s.pbr := rfl
@[simp] theorem setLatch_flagE (l : Latch) : (s.setLatch l).flagE = s.flagE := rfl
@[simp] theorem setLatch_flagM (l : Latch) : (s.setLatch l).flagM = s.flagM := rfl
@[simp] theorem setLatch_flagXF (l : Latch) : (s.setLatch l).flagXF = s.flagXF := rfl
@[simp] theorem setLatch_cyc (l : Latch) : (s.setLatch l).cyc = s.cyc := rfl
@[simp] theorem setLatch_mem (l : Latch) : (s.setLatch l).mem = s.mem := rfl
@[simp] theorem setLatch_latch (l : Latch) : (s.setLatch l).latch = l := rfl
@[simp] theorem setLatch_fault (l : Latch) : (s.setLatch l).fault = s.fault := rfl
@[simp] theorem setLatch_resp (l : Latch) : (s.setLatch l).resp = s.resp := rfl
@[simp] theorem setLatch_params (l : Latch) : (s.setLatch l).params = s.params := rfl
@[simp] theorem setLatch_commands (l : Latch) : (s.setLatch l).commands = s.commands := rfl

/-! ### `charge` -/

@[simp] theorem charge_regA (n : BitVec 16) : (s.charge n).regA = s.regA := rfl
@[simp] theorem charge_regX (n : BitVec 16) : (s.charge n).regX = s.regX := rfl
@[simp] theorem charge_regY (n : BitVec 16) : (s.charge n).regY = s.regY := rfl
@[simp] theorem charge_regS (n : BitVec 16) : (s.charge n).regS = s.regS := rfl
@[simp] theorem charge_pc (n : BitVec 16) : (s.charge n).pc = s.pc := rfl
@[simp] theorem charge_regD (n : BitVec 16) : (s.charge n).regD = s.regD := rfl
@[simp] theorem charge_dbr (n : BitVec 16) : (s.charge n).dbr = s.dbr := rfl
@[simp] theorem charge_pbr (n : BitVec 16) : (s.charge n).pbr = s.pbr := rfl
@[simp] theorem charge_flagE (n : BitVec 16) : (s.charge n).flagE = s.flagE := rfl
@[simp] theorem charge_flagM (n : BitVec 16) : (s.charge n).flagM = s.flagM := rfl
@[simp] theorem charge_flagXF (n : BitVec 16) : (s.charge n).flagXF = s.flagXF := rfl
@[simp] theorem charge_cyc (n : BitVec 16) : (s.charge n).cyc = s.cyc + n.setWidth 64 := rfl
@[simp] theorem charge_mem (n : BitVec 16) : (s.charge n).mem = s.mem := rfl
@[simp] theorem charge_latch (n : BitVec 16) : (s.charge n).latch = s.latch := rfl
@[simp] theorem charge_fault (n : BitVec 16) : (s.charge n).fault = s.fault := rfl
@[simp] theorem charge_resp (n : BitVec 16) : (s.charge n).resp = s.resp := rfl
@[simp] theorem charge_params (n : BitVec 16) : (s.charge n).params = s.params := rfl
@[simp] theorem charge_commands (n : BitVec 16) : (s.charge n).commands = s.commands := rfl

/-! ### `setPc` -/

@[simp] theorem setPc_regA (v : Word) : (s.setPc v).regA = s.regA := rfl
@[simp] theorem setPc_regX (v : Word) : (s.setPc v).regX = s.regX := rfl
@[simp] theorem setPc_regY (v : Word) : (s.setPc v).regY = s.regY := rfl
@[simp] theorem setPc_regS (v : Word) : (s.setPc v).regS = s.regS := rfl
@[simp] theorem setPc_pc (v : Word) : (s.setPc v).pc = some v := rfl
@[simp] theorem setPc_regD (v : Word) : (s.setPc v).regD = s.regD := rfl
@[simp] theorem setPc_dbr (v : Word) : (s.setPc v).dbr = s.dbr := rfl
@[simp] theorem setPc_pbr (v : Word) : (s.setPc v).pbr = s.pbr := rfl
@[simp] theorem setPc_flagE (v : Word) : (s.setPc v).flagE = s.flagE := rfl
@[simp] theorem setPc_flagM (v : Word) : (s.setPc v).flagM = s.flagM := rfl
@[simp] theorem setPc_flagXF (v : Word) : (s.setPc v).flagXF = s.flagXF := rfl
@[simp] theorem setPc_cyc (v : Word) : (s.setPc v).cyc = s.cyc := rfl
@[simp] theorem setPc_mem (v : Word) : (s.setPc v).mem = s.mem := rfl
@[simp] theorem setPc_latch (v : Word) : (s.setPc v).latch = s.latch := rfl
@[simp] theorem setPc_fault (v : Word) : (s.setPc v).fault = s.fault := rfl
@[simp] theorem setPc_resp (v : Word) : (s.setPc v).resp = s.resp := rfl
@[simp] theorem setPc_params (v : Word) : (s.setPc v).params = s.params := rfl
@[simp] theorem setPc_commands (v : Word) : (s.setPc v).commands = s.commands := rfl

/-! ### `writeM` -/

@[simp] theorem writeM_regA (b : Bool) : (writeM s b).regA = s.regA := rfl
@[simp] theorem writeM_regX (b : Bool) : (writeM s b).regX = s.regX := rfl
@[simp] theorem writeM_regY (b : Bool) : (writeM s b).regY = s.regY := rfl
@[simp] theorem writeM_regS (b : Bool) : (writeM s b).regS = s.regS := rfl
@[simp] theorem writeM_pc (b : Bool) : (writeM s b).pc = s.pc := rfl
@[simp] theorem writeM_regD (b : Bool) : (writeM s b).regD = s.regD := rfl
@[simp] theorem writeM_dbr (b : Bool) : (writeM s b).dbr = s.dbr := rfl
@[simp] theorem writeM_pbr (b : Bool) : (writeM s b).pbr = s.pbr := rfl
@[simp] theorem writeM_flagE (b : Bool) : (writeM s b).flagE = s.flagE := rfl
@[simp] theorem writeM_flagM (b : Bool) : (writeM s b).flagM = b := rfl
@[simp] theorem writeM_flagXF (b : Bool) : (writeM s b).flagXF = s.flagXF := rfl
@[simp] theorem writeM_cyc (b : Bool) : (writeM s b).cyc = s.cyc := rfl
@[simp] theorem writeM_mem (b : Bool) : (writeM s b).mem = s.mem := rfl
@[simp] theorem writeM_latch (b : Bool) : (writeM s b).latch = s.latch := rfl
@[simp] theorem writeM_fault (b : Bool) : (writeM s b).fault = s.fault := rfl
@[simp] theorem writeM_resp (b : Bool) : (writeM s b).resp = s.resp := rfl
@[simp] theorem writeM_params (b : Bool) : (writeM s b).params = s.params := rfl
@[simp] theorem writeM_commands (b : Bool) : (writeM s b).commands = s.commands := rfl

/-! ### `writeXF` -/

@[simp] theorem writeXF_regA (b : Bool) : (writeXF s b).regA = s.regA := rfl
@[simp] theorem writeXF_regX (b : Bool) : (writeXF s b).regX = s.regX := rfl
@[simp] theorem writeXF_regY (b : Bool) : (writeXF s b).regY = s.regY := rfl
@[simp] theorem writeXF_regS (b : Bool) : (writeXF s b).regS = s.regS := rfl
@[simp] theorem writeXF_pc (b : Bool) : (writeXF s b).pc = s.pc := rfl
@[simp] theorem writeXF_regD (b : Bool) : (writeXF s b).regD = s.regD := rfl
@[simp] theorem writeXF_dbr (b : Bool) : (writeXF s b).dbr = s.dbr := rfl
@[simp] theorem writeXF_pbr (b : Bool) : (writeXF s b).pbr = s.pbr := rfl
@[simp] theorem writeXF_flagE (b : Bool) : (writeXF s b).flagE = s.flagE := rfl
@[simp] theorem writeXF_flagM (b : Bool) : (writeXF s b).flagM = s.flagM := rfl
@[simp] theorem writeXF_flagXF (b : Bool) : (writeXF s b).flagXF = if s.flagE then s.flagXF else b := rfl
@[simp] theorem writeXF_cyc (b : Bool) : (writeXF s b).cyc = s.cyc := rfl
@[simp] theorem writeXF_mem (b : Bool) : (writeXF s b).mem = s.mem := rfl
@[simp] theorem writeXF_latch (b : Bool) : (writeXF s b).latch = s.latch := rfl
@[simp] theorem writeXF_fault (b : Bool) : (writeXF s b).fault = s.fault := rfl
@[simp] theorem writeXF_resp (b : Bool) : (writeXF s b).resp = s.resp := rfl
@[simp] theorem writeXF_params (b : Bool) : (writeXF s b).params = s.params := rfl
@[simp] theorem writeXF_commands (b : Bool) : (writeXF s b).commands = s.commands := rfl

/-! ### `enterEmulation` -/

@[simp] theorem enterEmulation_regA : (enterEmulation s).regA = s.regA := rfl
@[simp] theorem enterEmulation_regX : (enterEmulation s).regX = s.regX.map (indexStored true) := rfl
@[simp] theorem enterEmulation_regY : (enterEmulation s).regY = s.regY.map (indexStored true) := rfl
@[simp] theorem enterEmulation_regS : (enterEmulation s).regS = s.regS.map (stackStored true) := rfl
@[simp] theorem enterEmulation_pc : (enterEmulation s).pc = s.pc := rfl
@[simp] theorem enterEmulation_regD : (enterEmulation s).regD = s.regD := rfl
@[simp] theorem enterEmulation_dbr : (enterEmulation s).dbr = s.dbr := rfl
@[simp] theorem enterEmulation_pbr : (enterEmulation s).pbr = s.pbr := rfl
@[simp] theorem enterEmulation_flagE : (enterEmulation s).flagE = true := rfl
@[simp] theorem enterEmulation_flagM : (enterEmulation s).flagM = s.flagM := rfl
@[simp] theorem enterEmulation_flagXF : (enterEmulation s).flagXF = true := rfl
@[simp] theorem enterEmulation_cyc : (enterEmulation s).cyc = s.cyc := rfl
@[simp] theorem enterEmulation_mem : (enterEmulation s).mem = s.mem := rfl
@[simp] theorem enterEmulation_latch : (enterEmulation s).latch = s.latch := rfl
@[simp] theorem enterEmulation_fault : (enterEmulation s).fault = s.fault := rfl
@[simp] theorem enterEmulation_resp : (enterEmulation s).resp = s.resp := rfl
@[simp] theorem enterEmulation_params : (enterEmulation s).params = s.params := rfl
@[simp] theorem enterEmulation_commands : (enterEmulation s).commands = s.commands := rfl

/-! ### `applyReset` -/

@[simp] theorem applyReset_regA : (s.applyReset).regA = none := rfl
@[simp] theorem applyReset_regX : (s.applyReset).regX = none := rfl
@[simp] theorem applyReset_regY : (s.applyReset).regY = none := rfl
@[simp] theorem applyReset_regS : (s.applyReset).regS = none := rfl
@[simp] theorem applyReset_pc : (s.applyReset).pc = none := rfl
@[simp] theorem applyReset_regD : (s.applyReset).regD = 0 := rfl
@[simp] theorem applyReset_dbr : (s.applyReset).dbr = 0 := rfl
@[simp] theorem applyReset_pbr : (s.applyReset).pbr = 0 := rfl
@[simp] theorem applyReset_flagE : (s.applyReset).flagE = true := rfl
@[simp] theorem applyReset_flagM : (s.applyReset).flagM = true := rfl
@[simp] theorem applyReset_flagXF : (s.applyReset).flagXF = true := rfl
@[simp] theorem applyReset_cyc : (s.applyReset).cyc = 0 := rfl
@[simp] theorem applyReset_mem : (s.applyReset).mem = s.mem := rfl
@[simp] theorem applyReset_latch : (s.applyReset).latch = Latch.invalid := rfl
@[simp] theorem applyReset_fault : (s.applyReset).fault = ⟨.none, 0⟩ := rfl
@[simp] theorem applyReset_resp : (s.applyReset).resp = 0 := rfl
@[simp] theorem applyReset_params : (s.applyReset).params = s.params := rfl
@[simp] theorem applyReset_commands : (s.applyReset).commands = s.commands := rfl

/-! ### `pendFirst` -/

@[simp] theorem pendFirst_regA (w : Command) : (pendFirst s w).regA = s.regA := rfl
@[simp] theorem pendFirst_regX (w : Command) : (pendFirst s w).regX = s.regX := rfl
@[simp] theorem pendFirst_regY (w : Command) : (pendFirst s w).regY = s.regY := rfl
@[simp] theorem pendFirst_regS (w : Command) : (pendFirst s w).regS = s.regS := rfl
@[simp] theorem pendFirst_pc (w : Command) : (pendFirst s w).pc = s.pc := rfl
@[simp] theorem pendFirst_regD (w : Command) : (pendFirst s w).regD = s.regD := rfl
@[simp] theorem pendFirst_dbr (w : Command) : (pendFirst s w).dbr = s.dbr := rfl
@[simp] theorem pendFirst_pbr (w : Command) : (pendFirst s w).pbr = s.pbr := rfl
@[simp] theorem pendFirst_flagE (w : Command) : (pendFirst s w).flagE = s.flagE := rfl
@[simp] theorem pendFirst_flagM (w : Command) : (pendFirst s w).flagM = s.flagM := rfl
@[simp] theorem pendFirst_flagXF (w : Command) : (pendFirst s w).flagXF = s.flagXF := rfl
@[simp] theorem pendFirst_cyc (w : Command) : (pendFirst s w).cyc = s.cyc := rfl
@[simp] theorem pendFirst_mem (w : Command) : (pendFirst s w).mem = s.mem := rfl
@[simp] theorem pendFirst_latch (w : Command) : (pendFirst s w).latch = s.latch := rfl
@[simp] theorem pendFirst_fault (w : Command) : (pendFirst s w).fault = s.fault := rfl
@[simp] theorem pendFirst_resp (w : Command) : (pendFirst s w).resp = s.resp := rfl
@[simp] theorem pendFirst_params (w : Command) : (pendFirst s w).params = s.params := rfl
@[simp] theorem pendFirst_commands (w : Command) : (pendFirst s w).commands = w :: s.commands := rfl

end Sys2Proof.Machine
end

