-- ==== Sys2Proof/Tests/Slice0.lean ====
section
/-! SUPPORT. Tests. Expected values come from spec/95_test_vectors.md (the vector is named) or are read off the
spec's tables; each step test runs one step. Then, for every statement with hypotheses, a concrete case that meets
them. -/

namespace Sys2Proof.Tests

open Sys2Proof.Machine Sys2Proof.Claims

/-- The reset state with a concrete cost table: 3 cycles for a byte, 5 for a word. -/
def unit : State := State.powerOn ⟨.dbr, .always, Vector.replicate 20 ⟨3, 5⟩⟩ []

/-- `unit` in native mode with 16-bit index registers. -/
def native : State := { unit with flagE := false, flagXF := false }

/-- The state a command or step leaves. -/
def left (r : Result) : State :=
  match r with
  | .next t => t
  | .fault _ | .refused _ => unit

/-- `s` after one step that runs the command word `w`. -/
def ran (s : State) (w : Nat) : State := left (step (s.withFetchWord 64 w))

/-- A command word from its fields, bits 63..56 first, laid out as the table of R64. -/
def fields (data : BitVec 16) (op : BitVec 24) (reg : BitVec 4) (wsel : BitVec 2) (mode : BitVec 5)
    (cmd : BitVec 4) : Command :=
  0b00000000#8 ++ data ++ op ++ 0b0#1 ++ reg ++ wsel ++ mode ++ cmd

/-! ### Well-formedness: each check refuses -/

theorem test_wf_refuses_readOnly_register : Instr.wellFormed (.writeReg .cyc 0) = false := by decide
theorem test_wf_refuses_wide_bank : Instr.wellFormed (.writeReg .dbr 0x100) = false := by decide
theorem test_wf_refuses_wide_flag : Instr.wellFormed (.writeReg .e 2) = false := by decide
theorem test_wf_refuses_wide_byte : Instr.wellFormed (.writeByte 0 0x100) = false := by decide
theorem test_wf_refuses_wide_fixed_byte : Instr.wellFormed (.writeOperand 0 .fixed8 0x100) = false := by decide
theorem test_wf_accepts_limits :
    Instr.wellFormed (.writeReg .dbr 0xFF) = true ∧ Instr.wellFormed (.writeReg .e 1) = true ∧
    Instr.wellFormed (.writeByte 0 0xFF) = true ∧ Instr.wellFormed (.writeOperand 0 .fixed16 0xFFFF) = true := by decide

/-! ### Decoding: words from R64 to R71 and the vectors -/

theorem test_decode_reset : decode 0x0000000000000001 = .ok .reset := by decide
theorem test_decode_register_file :
    decode 0x0000000000005802 = .ok (.readReg .cyc) ∧
    decode 0x0012340000000803 = .ok (.writeReg .x 0x1234) := by decide
theorem test_decode_bus :
    decode 0x000000FFFFFF0004 = .ok (.readByte 0xFFFFFF) ∧
    decode 0x0000AA1234560005 = .ok (.writeByte 0x123456 0x00AA) ∧
    decode 0x0000000000FF0206 = .ok (.readOperand 0x0000FF .byX) ∧
    decode 0x00CDAB00FFFF0607 = .ok (.writeOperand 0x00FFFF .fixed16 0xCDAB) := by decide
theorem test_decode_result :
    decode 0x0000000000000009 = .ok .loadEa ∧ decode 0x00BEEF000000000A = .ok (.storeEa 0xBEEF) ∧
    decode 0x000000000000000B = .ok .commitPc := by decide
theorem test_decode_imp_imm :
    decode 0x0000001234560008 = .ok (.resolveImp .byM 0x123456) ∧
    decode 0x00000000BEEF0218 = .ok (.resolveImm .byX 0x00BEEF) := by decide
theorem test_decode_absolute :
    decode 0x00000000FFFF0628 = .ok (.resolveAbs .fixed16 0xFFFF) ∧
    decode 0x00000000FFFF0638 = .ok (.resolveAbsJmp .fixed16 0xFFFF) ∧
    decode 0x00000000FFFE0648 = .ok (.resolveAbsX .fixed16 0xFFFE) ∧
    decode 0x0000000020000058 = .ok (.resolveAbsY .byM 0x2000) ∧
    decode 0x0000000012340668 = .ok (.resolveAbsInd .fixed16 0x1234) ∧
    decode 0x00000000FFFE0678 = .ok (.resolveAbsXInd .fixed16 0xFFFE) := by decide
theorem test_decode_direct :
    decode 0x0000000000F00488 = .ok (.resolveDp .fixed8 0xF0) ∧
    decode 0x0000000000FF0698 = .ok (.resolveDpX .fixed16 0xFF) ∧
    decode 0x00000000001004A8 = .ok (.resolveDpY .fixed8 0x10) ∧
    decode 0x00000000001006B8 = .ok (.resolveDpInd .fixed16 0x10) ∧
    decode 0x0000000000FF04C8 = .ok (.resolveDpIndL .fixed8 0xFF) ∧
    decode 0x00000000001006D8 = .ok (.resolveDpXInd .fixed16 0x10) ∧
    decode 0x00000000004004E8 = .ok (.resolveDpIndY .fixed8 0x40) ∧
    decode 0x00000000000006F8 = .ok (.resolveDpIndLY .fixed16 0x00) := by decide
theorem test_decode_long_and_stack :
    decode 0x0000001234560708 = .ok (.resolveAbsL .fixed16 0x123456) ∧
    decode 0x000000FFFFFF0518 = .ok (.resolveAbsLX .fixed8 0xFFFFFF) ∧
    decode 0x0000000000030528 = .ok (.resolveSr .fixed8 0x03) ∧
    decode 0x0000000000020738 = .ok (.resolveSrIndY .fixed16 0x02) := by decide

/-- One word of each shape, its fields written bit by bit from R64 and the code tables of R66 to R69. -/
theorem test_decode_by_fields :
    decode (fields 0x0000 0x000000 0b0000 0b00 0b00000 0b0001) = .ok .reset ∧
    decode (fields 0x1234 0x000000 0b0001 0b00 0b00000 0b0011) = .ok (.writeReg .x 0x1234) ∧
    decode (fields 0xCDAB 0x00FFFF 0b0000 0b11 0b00000 0b0111) = .ok (.writeOperand 0x00FFFF .fixed16 0xCDAB) ∧
    decode (fields 0x0000 0x00FFFE 0b0000 0b10 0b00100 0b1000) = .ok (.resolveAbsX .fixed8 0x00FFFE) ∧
    decode (fields 0x0000 0x000040 0b0000 0b01 0b01110 0b1000) = .ok (.resolveDpIndY .byX 0x000040) ∧
    decode (fields 0x0000 0x000002 0b0000 0b11 0b10011 0b1000) = .ok (.resolveSrIndY .fixed16 0x000002) ∧
    decode (fields 0xBEEF 0x000000 0b0000 0b00 0b00000 0b1010) = .ok (.storeEa 0xBEEF) := by decide

/-- V-DEC-1 to V-DEC-7, V-MODE-2, V-REG-20: rejected words, by name, in the order of R76. -/
theorem test_decode_rejects :
    decode 0x0000000000000000 = .error ⟨.invalidCommand, 0x00⟩ ∧
    decode 0x000000000000000F = .error ⟨.invalidCommand, 0x0F⟩ ∧
    decode 0x00000000000081F8 = .error ⟨.invalidMode, 0x1F⟩ ∧
    decode 0x0000000000006002 = .error ⟨.invalidRegister, 0x0C⟩ ∧
    decode 0x0000000000008008 = .error ⟨.reservedBitsSet, 0x0F⟩ ∧
    decode 0x8000000000000001 = .error ⟨.reservedBitsSet, 0x3F⟩ ∧
    decode 0x0000010000000009 = .error ⟨.reservedBitsSet, 0x28⟩ ∧
    decode 0x0000000000000808 = .error ⟨.reservedBitsSet, 0x0B⟩ := by decide

/-! ### One step of each command -/

/-- V-FLT-7: `RESET` clears the fault. -/
theorem test_reset_clears_fault : (ran { unit with fault := ⟨.invalidCommand, 0x0C⟩ } 0x1).fault = ⟨.none, 0⟩ := by decide

/-- The host's own call: the word placed in the reset state runs. -/
theorem test_reset_state_runs_word :
    left (step (State.reset.withFetchWord 64 0x0012340000002003)) = { State.reset with regD := 0x1234 } := rfl

/-- V-REG-1, V-REG-4. -/
theorem test_readReg : (ran unit 0x4002).resp = 1 ∧ (ran unit 0x802).fault = ⟨.undefinedRegister, 0x01⟩ := by decide

/-- V-REG-5, V-REG-6. -/
theorem test_writeReg_index_and_stack :
    (ran unit 0x0012340000000803).regX = some 0x0034 ∧ (ran unit 0x0034560000001803).regS = some 0x0156 := by decide

/-- V-REG-9 (last step): entering emulation. -/
theorem test_writeReg_e :
    let t := ran { native with regX := some 0x1234, regY := some 0xABCD, regS := some 0x3FF0 } 0x0000010000004003
    t.flagXF = true ∧ t.regX = some 0x0034 ∧ t.regY = some 0x00CD ∧ t.regS = some 0x01F0 := by decide

/-- V-BUS-1: every address is valid. -/
theorem test_readByte : (ran unit 0x000000FFFFFF0004).fault.code = .none := by decide

/-- V-BUS-2, V-BUS-8. -/
theorem test_writeByte :
    (ran unit 0x0000AA1234560005).mem = [(0x123456, 0xAA)] ∧
    (ran unit 0x0001000010000005).fault = ⟨.reservedBitsSet, 0x30⟩ := by decide

/-- V-BUS-3, V-BUS-4. -/
theorem test_readOperand :
    (ran { unit with mem := [(0, 0x22), (0xFFFFFF, 0x11)] } 0x000000FFFFFF0606).resp = 0x2211 ∧
    (ran { unit with mem := [(0xFF, 0x11), (0x100, 0x22)] } 0x0000000000FF0006).resp = 0x0011 := by decide

/-- V-BUS-6, V-BUS-7. -/
theorem test_writeOperand :
    (ran unit 0x00CDAB00FFFF0607).mem = [(0x00FFFF, 0xAB), (0x010000, 0xCD)] ∧
    (ran unit 0x0080000010000407).fault = ⟨.reservedBitsSet, 0x37⟩ := by decide

/-- V-IMP-2. -/
theorem test_resolve_imp :
    let t := ran unit 0x0000001234560008
    t.latch.kind = .none ∧ t.latch.len = 0 ∧ t.latch.w = 1 ∧ t.cyc = 3 := by decide

/-- V-IMM-2, V-IMM-3. -/
theorem test_resolve_imm :
    (ran { unit with flagM := false } 0x12340018).latch.imm = 0x1234 ∧
    (ran unit 0x12340018).latch.imm = 0x0034 ∧ (ran unit 0x12340018).latch.len = 1 := by decide

/-- V-ABS-2. -/
theorem test_resolve_abs :
    let l := (ran { unit with dbr := 0xFF } 0xFFFF0628).latch
    l.ea = 0xFFFFFF ∧ l.ea2 = 0x000000 ∧ l.len = 2 ∧ l.w = 2 := by decide

/-- V-ABS_JMP-1. -/
theorem test_resolve_absJmp :
    let l := (ran { unit with pbr := 0x12 } 0xFFFF0638).latch
    l.kind = .jump ∧ l.ea = 0x12FFFF ∧ l.ea2 = 0x120000 := by decide

/-- V-ABS_X-3: the largest sum, charged one more cycle for the crossing. -/
theorem test_resolve_absX :
    let t := ran { native with dbr := 0xFF, regX := some 0xFFFF } 0xFFFF0648
    t.latch.ea = 0x00FFFE ∧ t.latch.cross = true ∧ t.latch.cost = 6 ∧ t.cyc = 6 := by decide

/-- V-ABS_Y-2, and the fault of V-ABS_Y-3. -/
theorem test_resolve_absY :
    (ran { native with dbr := 0x7E, regY := some 0x0100 } 0xFF000658).latch.ea = 0x7F0000 ∧
    (ran { native with flagXF := true, regY := some 0x1234 } 0x20000058).fault = ⟨.indexWidthIncoherent, 2⟩ := by decide

/-- V-ABS_IND-2: the pointer pair stays in bank 0x00. -/
theorem test_resolve_absInd :
    let l := (ran { unit with dbr := 0x34, pbr := 0x12, mem := [(0, 0x90), (0x010000, 0xEE)] } 0xFFFF0668).latch
    l.ea = 0x129000 ∧ l.pa = 0x00FFFF ∧ l.pv = 0x9000 := by decide

/-- V-ABS_X_IND-2. -/
theorem test_resolve_absXInd :
    let l := (ran { unit with pbr := 0x12, regX := some 1,
                              mem := [(0x120000, 0x12), (0x12FFFF, 0x34), (0x130000, 0xEE)] } 0xFFFE0678).latch
    l.ea = 0x121234 ∧ l.pa = 0x12FFFF := by decide

/-- V-DP-1 (page wrap), V-DP-5 (native, bank `DBR`). -/
theorem test_resolve_dp :
    (ran { unit with regD := 0xFF00 } 0xFF0688).latch.ea2 = 0x00FF00 ∧
    (ran { native with regD := 0xFFF0, dbr := 0x12 } 0x200688).latch.ea = 0x120010 := by decide

/-- V-PAR-2 and V-PAR-5: the other value of each parameter. -/
theorem test_resolve_dp_parameters :
    (ran { unit with dbr := 0x12, params := { unit.params with dpBank := .zero } } 0x100488).latch.ea = 0x000010 ∧
    (ran { unit with regD := 0x1201, params := { unit.params with emuWrap := .dlZero } } 0xFF0488).latch.ea =
      0x001300 := by decide

/-- V-DP_X-1, V-DP_X-2. -/
theorem test_resolve_dpX :
    (ran { unit with regX := some 0x20 } 0xF00498).latch.ea = 0x000010 ∧
    (ran { native with regX := some 0x120 } 0xF00498).latch.ea = 0x000210 := by decide

/-- V-DP_Y-2. -/
theorem test_resolve_dpY :
    (ran { native with regD := 0x10, regY := some 0xFFFF } 0x0106A8).latch.ea = 0x000010 := by decide

/-- V-DP_IND-1, V-DP_IND-2: the high pointer byte with and without page wrap. -/
theorem test_resolve_dpInd :
    (ran { unit with regD := 0xFF00, mem := [(0x00FF00, 0x12), (0x00FFFF, 0x34)] } 0xFF06B8).latch.ea = 0x001234 ∧
    (ran { native with regD := 0xFF00, mem := [(0, 0x56), (0x00FFFF, 0x34)] } 0xFF06B8).latch.ea = 0x005634 := by decide

/-- V-DP_IND_L-2: no page wrap in emulation mode. -/
theorem test_resolve_dpIndL :
    (ran { unit with mem := [(0, 0xEE), (0xFF, 0x11), (0x100, 0x22), (0x101, 0x33)] } 0xFF04C8).latch.ea =
      0x332211 := by decide

/-- V-DP_X_IND-2. -/
theorem test_resolve_dpXInd :
    let l := (ran { unit with regX := some 1, mem := [(0, 0x22), (0xFF, 0x11), (0x100, 0xEE)] } 0xFE04D8).latch
    l.ea = 0x002211 ∧ l.pa = 0x0000FF ∧ l.pn = 2 := by decide

/-- V-DP_IND_Y-1. -/
theorem test_resolve_dpIndY :
    let l := (ran { native with dbr := 0x12, regY := some 0x20,
                                mem := [(0x120040, 0xF0), (0x120041, 0xFF)] } 0x4006E8).latch
    l.ea = 0x130010 ∧ l.pv = 0xFFF0 ∧ l.cross = true := by decide

/-- V-DP_IND_L_Y-1: the index carries into the pointer's own bank. -/
theorem test_resolve_dpIndLY :
    let l := (ran { unit with dbr := 0x55, regY := some 1,
                              mem := [(0x550000, 0xFF), (0x550001, 0xFF), (0x550002, 0x7E)] } 0x06F8).latch
    l.ea = 0x7F0000 ∧ l.pn = 3 ∧ l.cross = true := by decide

/-- V-ABS_L-2. -/
theorem test_resolve_absL :
    let l := (ran unit 0x000000FFFFFF0708).latch
    l.ea = 0xFFFFFF ∧ l.ea2 = 0x000000 ∧ l.len = 3 := by decide

/-- V-ABS_L_X-2. -/
theorem test_resolve_absLX :
    let l := (ran { unit with regX := some 1 } 0x000000FFFFFF0518).latch
    l.ea = 0x000000 ∧ l.ea2 = 0x000001 ∧ l.cross = true := by decide

/-- V-SR-2, V-SR-4. -/
theorem test_resolve_sr :
    (ran { native with dbr := 0x12, regS := some 0xFFFF } 0x0728).latch.ea2 = 0x000000 ∧
    (ran unit 0x050528).fault = ⟨.undefinedRegister, 3⟩ := by decide

/-- V-SR_IND_Y-2, and V-FLT-2: `S` is checked before `Y`. -/
theorem test_resolve_srIndY :
    (ran { native with dbr := 0xFF, regY := some 0x10, regS := some 0xFFFF,
                       mem := [(0, 0xFF), (0x00FFFF, 0xF8)] } 0x0738).latch.ea = 0x000008 ∧
    (ran unit 0x020738).fault = ⟨.undefinedRegister, 3⟩ := by decide

/-- A latch for a data access of width `w` at `ea`, `ea2`. -/
def dataLatch (w : BitVec 2) (ea ea2 : Addr) : Latch :=
  { Latch.invalid with kind := .data, tag := .abs, w := w, ea := ea, ea2 := ea2, len := 2 }

/-- V-LD-1 (last step), V-LD-8. -/
theorem test_loadEa :
    (ran { unit with latch := dataLatch 2 0x7E1234 0x7E1235, mem := [(0x7E1234, 0xCD), (0x7E1235, 0xAB)] } 9).resp =
      0xABCD ∧
    (ran { unit with latch := { Latch.invalid with kind := .jump } } 9).fault = ⟨.resultKindMismatch, 4⟩ := by decide

/-- V-ST-2 (last step), V-ST-4. -/
theorem test_storeEa :
    (ran { unit with latch := dataLatch 2 0x00FFFF 0x00FF00 } 0x00BEEF000000000A).mem =
      [(0x00FF00, 0xBE), (0x00FFFF, 0xEF)] ∧
    (ran { unit with latch := dataLatch 1 0x7E1234 0x7E1235 } 0x000155000000000A).fault =
      ⟨.reservedBitsSet, 0x30⟩ := by decide

/-- V-PC-4 (last step), V-PC-5 (last step), and V-PC-1 with R31: no field of the latch is left set. -/
theorem test_commitPc :
    (ran { unit with pc := some 0xFFFE, latch := dataLatch 1 0x1234 0x1235 } 0xB).pc = some 0x0001 ∧
    (ran { unit with pbr := 0x12, latch := { Latch.invalid with kind := .jump, ea := 0x12C000 } } 0xB).pc =
      some 0xC000 ∧
    (ran { unit with pc := some 0xFFFE, latch := dataLatch 1 0x1234 0x1235 } 0xB).latch = noResult := by decide

/-- V-FLT-5: a recorded fault ignores commands. -/
theorem test_faulted_ignores : (ran { unit with fault := ⟨.invalidCommand, 0x0C⟩ } 0x0012340000002003).regD = 0 := by
  decide

/-- V-BC-3, V-BC-4, V-BF-2, V-PF-4, V-PF-5. -/
theorem test_address_arithmetic :
    bankCarry 0xFFFFFF 1 = 0x000000 ∧ bankCarry 0x12FFFF 0xFFFF = 0x13FFFE ∧ bankFixed 0xFFFFFF 1 = 0xFF0000 ∧
    pageFixed 0x0012FF 0x01FE = 0x0012FD ∧ pageFixed 0x7EFFFF 1 = 0x7EFF00 := by decide

/-! ### The hypotheses of the statements are met -/

/-- Every register holds a value, at the edge of its range, in native mode. -/
def full : State :=
  { native with regA := some 0xFFFF, regX := some 0xFFFF, regY := some 0xFFFF, regS := some 0xFFFF, pc := some 0xFFFF,
                regD := 0xFFFF, dbr := 0xFF, pbr := 0xFF, flagM := false }

/-- `full` with the index width narrowed under the index registers. -/
def incoherent : State := { full with flagXF := true, regX := some 0x0100 }

/-- Emulation mode with every register at the edge of its range. -/
def emulation : State :=
  { unit with regX := some 0x00FF, regY := some 0x00FF, regS := some 0x01FF, pc := some 0, regD := 0xFF00,
              mem := [(0x00FF00, 0x12), (0x00FFFF, 0x34)] }

/-- A state with a recorded fault. -/
def stopped : State := { unit with fault := ⟨.invalidCommand, 0⟩ }

theorem witness_StepRunsTheDecodedCommand :
    ({ unit with commands := [0x5802] } : State).commands = 0x5802 :: [] ∧
    decode 0x5802 = .ok (.readReg .cyc) ∧ (Instr.readReg .cyc).wellFormed = true ∧
    0x5802 = encode (.readReg .cyc) := by decide

theorem witness_IdleWithoutCommand : unit.commands = [] := by decide

theorem witness_EncodeOfDecodeIsTheWord : decode 0x0012340000000803 = .ok (.writeReg .x 0x1234) := by decide

theorem witness_MalformedWords_command :
    ({ unit with commands := [0xC] } : State).commands = 0xC :: [] ∧ unit.Running ∧
    (0 : Command).toNat % 16 = 0 ∧ 0xC ≤ (0xC : Command).toNat % 16 := by decide

theorem witness_MalformedWords_mode :
    (0x148 : Command).toNat % 16 = 8 ∧ 0x14 ≤ (0x148 : Command).toNat / 2 ^ 4 % 32 := by decide

theorem witness_MalformedWords_register :
    (0x6003 : Command).toNat % 16 = 3 ∧ 0xC ≤ (0x6003 : Command).toNat / 2 ^ 11 % 16 := by decide

/-- `RESET` with bit 63 set and `READ_REG A` with bit 4 set: the top and the bottom of the bits that must be zero. -/
theorem witness_MalformedWords_reserved :
    (Offends 0x8000000000000001 63 ∧ ∀ j < 63, ¬Offends 0x8000000000000001 j) ∧
    (Offends 0x0000000000000012 4 ∧ ∀ j < 4, ¬Offends 0x0000000000000012 j) ∧
    (0x12 : Command).toNat % 16 = 2 ∧ (0x12 : Command).toNat / 2 ^ 11 % 16 < 0xC := by
  refine ⟨⟨⟨.inr (.inl ⟨by decide, by decide⟩), by decide⟩, fun j hj h => ?_⟩,
    ⟨⟨.inr (.inr (.inl ⟨by decide, by decide, by decide⟩)), by decide⟩, fun j hj h => ?_⟩, by decide, by decide⟩
  · obtain rfl : j = 0 :=
      (show ∀ j < 63, (0x8000000000000001 : Command).getLsbD j = true → j = 0 by decide) j hj h.2
    have := h.1
    unfold MustBeZero at this
    omega
  · have := h.1
    unfold MustBeZero at this
    omega

/-- `READ_REG CYC`: nothing is wrong with the word, the largest register code included. -/
theorem witness_MalformedWords_wellFormed :
    (∀ k, ¬Offends 0x5802 k) ∧ (0x5802 : Command).toNat % 16 = 2 ∧ (0x5802 : Command).toNat / 2 ^ 11 % 16 = 0xB := by
  refine ⟨fun k h => ?_, by decide, by decide⟩
  have hk : k < 64 := BitVec.lt_of_getLsbD h.2
  have hb : k = 1 ∨ k = 11 ∨ k = 12 ∨ k = 14 :=
    (show ∀ k < 64, (0x5802 : Command).getLsbD k = true → k = 1 ∨ k = 11 ∨ k = 12 ∨ k = 14 by decide) k hk h.2
  have hm := h.1
  rw [show (0x5802 : Command).toNat % 16 = 2 by decide] at hm
  unfold MustBeZero at hm
  omega

theorem witness_WidthSelectFollowsTheFlags : unit.RegFileOk ∧ unit.flagE = true :=
  ⟨fun _ => ⟨rfl, nofun, nofun, nofun⟩, rfl⟩

theorem witness_ReadRegReturnsTheRegister :
    full.Running ∧ full.regA = some 0xFFFF ∧ full.regX = some 0xFFFF ∧ full.regY = some 0xFFFF ∧
    full.regS = some 0xFFFF ∧ full.pc = some 0xFFFF ∧
    unit.Running ∧ unit.regA = none ∧ unit.regX = none ∧ unit.regY = none ∧ unit.regS = none ∧ unit.pc = none := by
  decide

theorem witness_WriteRegStoresByTheWriteRule :
    unit.Running ∧ (0x00FF : Word).toNat < 0x100 ∧ (0x0001 : Word).toNat < 2 := by decide

theorem witness_WriteEEntersEmulation : unit.Running ∧ unit.flagE = true ∧ full.Running ∧ full.flagE = false := by decide

theorem witness_WriteRegRejectsBadData :
    unit.Running ∧ LowestFrom 0x0100 8 8 ∧ LowestFrom 0x80FF 8 15 ∧ LowestFrom 0x0002 1 1 ∧ LowestFrom 0x8001 1 15 := by
  decide

theorem witness_NarrowingXFLeavesTheIndexIncoherent :
    full.Running ∧ full.flagE = false ∧ 0x100 ≤ (0xFFFF : Word).toNat ∧ full.regX = some 0xFFFF ∧
    full.regY = some 0xFFFF ∧ full.regS ≠ none ∧ ({ full with regS := none } : State).regS = none := by decide

theorem witness_BusReadsReturnMemory :
    unit.Running ∧ widthOf unit .byM = .byte ∧ widthOf unit .fixed16 = .word := by decide

theorem witness_WriteByteChangesOneByte :
    emulation.Running ∧ emulation.mem.wf = true ∧ (0x00FF : Word).toNat < 0x100 ∧ LowestFrom 0x0100 8 8 := by decide

theorem witness_WriteOperandChangesItsBytes :
    emulation.Running ∧ emulation.mem.wf = true ∧ widthOf emulation .fixed8 = .byte ∧
    widthOf emulation .fixed16 = .word ∧ (0x00FF : Word).toNat < 0x100 ∧ LowestFrom 0x8000 8 15 := by decide

theorem witness_NextReadSeesTheWrite :
    let s := { emulation with latch := dataLatch 2 0x00FFFF 0x00FF00 }
    s.Running ∧ s.mem.wf = true ∧ s.latch.kind = .data ∧ s.latch.w = 2 ∧ s.latch.ea2 ≠ s.latch.ea := by decide

/-- One latch of every kind and, for data, of both widths; the hypotheses of the statements about the result latch. -/
theorem witness_LatchKinds :
    emulation.Running ∧ emulation.mem.wf = true ∧ Latch.invalid.kind = .invalid ∧
    (dataLatch 1 0 1).kind = .data ∧ (dataLatch 1 0 1).w = 1 ∧ (dataLatch 1 0 1).w ≠ 2 ∧
    (dataLatch 2 0 1).kind = .data ∧ (dataLatch 2 0 1).w = 2 ∧ LowestFrom 0x0100 8 8 ∧ (0xFF : Word).toNat < 0x100 ∧
    (ran unit 0x08).latch.kind = .none ∧ (ran unit 0x18).latch.kind = .imm ∧ (ran unit 0x638).latch.kind = .jump := by
  decide

theorem witness_CommitPcAdvancesOrJumps :
    full.pc = some 0xFFFF ∧ full.Running ∧ unit.pc = none ∧ unit.Running ∧ (ran full 0x628).latch.kind = .data ∧
    (ran full 0x628).pc = some 0xFFFF := by decide

/-- An index register at the top of each width, without a value, and at the lowest incoherent value: the hypotheses of
the indexed `RESOLVE` statements. -/
theorem witness_IndexedAt :
    full.Running ∧ full.regX = some 0xFFFF ∧ full.flagXF = false ∧
    emulation.Running ∧ emulation.regX = some 0x00FF ∧ emulation.flagXF = true ∧ (0x00FF : Word).toNat < 0x100 ∧
    unit.regX = none ∧ unit.regY = none ∧
    incoherent.regX = some 0x0100 ∧ incoherent.flagXF = true ∧ 0x100 ≤ (0x0100 : Word).toNat := by decide

theorem witness_StackModesResolve : unit.Running ∧ unit.regS = none ∧ full.Running ∧ full.regS = some 0xFFFF := by decide

theorem witness_ImplicitAndImmediateResolve :
    unit.Running ∧ widthOf unit .byM = .byte ∧ widthOf full .byM = .word := by decide

theorem witness_FixedBanksIgnoreOverflow :
    full.Running ∧
    (left (exec (.resolveAbsJmp .fixed16 0xFFFF) full)).Running ∧
    (left (exec (.resolveAbsInd .fixed16 0xFFFF) full)).Running ∧
    (left (exec (.resolveAbsXInd .fixed16 0xFFFF) full)).Running ∧
    (left (exec (.resolveSr .fixed16 0xFF) full)).Running ∧
    (left (exec (.resolveSrIndY .fixed16 0xFF) full)).Running := by decide

theorem witness_WrappedPointerStaysInItsPage :
    emulation.Running ∧ wraps emulation = true ∧
    exec (.resolveDpIndY .byM 0xFF) emulation = .next (left (exec (.resolveDpIndY .byM 0xFF) emulation)) ∧
    (left (exec (.resolveDpIndY .byM 0xFF) emulation)).Running ∧
    (left (exec (.resolveDpIndY .byM 0xFF) emulation)).latch.pa = 0x00FFFF :=
  ⟨by decide, by decide, rfl, by decide, by decide⟩

/-- Two states that differ in `A`, `PC`, the latch, the counter and `RESP`; a completing and a faulting `RESOLVE`. -/
theorem witness_ResolveDependsOnItsInputsOnly :
    let u := { full with regA := none, pc := none, cyc := 7, resp := 9, latch := dataLatch 2 0 1 }
    SameInputs full u ∧ full.Running ∧ u.Running ∧ isResolve (.resolveAbsX .byM 0) = true ∧
    (left (exec (.resolveAbsX .byM 0) full)).Running ∧
    ¬(left (exec (.resolveAbsX .byM 0) incoherent)).Running := by
  refine ⟨?_, ?_⟩
  · unfold SameInputs; decide
  · decide

theorem witness_OnlyWriteRegAndResetChangePbr :
    (ran unit 0x0000FF0000003003).pbr = 0xFF ∧ (ran unit 0x0000FF0000003003).pbr ≠ unit.pbr := by decide

theorem witness_OnlyResolveChargesTheCounter :
    unit.Running ∧ (left (exec (.resolveAbs .fixed16 0) unit)).Running ∧
    ¬(left (exec (.resolveAbsX .fixed16 0) unit)).Running ∧
    exec (.readReg .d) unit = .next (left (exec (.readReg .d) unit)) := by
  refine ⟨by decide, by decide, by decide, rfl⟩

/-- A command that is neither; a `COMMIT_PC` that completes and one that faults. -/
theorem witness_LatchSurvivesOtherCommands :
    exec .loadEa { unit with latch := dataLatch 1 0 1 } =
      .next (left (exec .loadEa { unit with latch := dataLatch 1 0 1 })) ∧
    isResolve .loadEa = false ∧
    exec .commitPc { full with latch := dataLatch 1 0 1 } =
      .next (left (exec .commitPc { full with latch := dataLatch 1 0 1 })) ∧
    (left (exec .commitPc { full with latch := dataLatch 1 0 1 })).Running ∧
    exec .commitPc full = .next (left (exec .commitPc full)) ∧ ¬(left (exec .commitPc full)).Running ∧
    isResolve .commitPc = false := ⟨rfl, rfl, rfl, by decide, rfl, by decide, rfl⟩

theorem witness_OnlyStoresChangeMemory :
    emulation.mem.wf = true ∧
    memRead (left (exec (.writeByte 0xFFFFFF 1) emulation)) 0xFFFFFF ≠ memRead emulation 0xFFFFFF := by decide

theorem witness_FaultsArePrecise :
    unit.Running ∧ exec (.readReg .x) unit = .next (left (exec (.readReg .x) unit)) ∧
    ¬(left (exec (.readReg .x) unit)).Running := ⟨by decide, rfl, by decide⟩

theorem witness_RecordedFaultIgnoresCommands :
    ({ stopped with commands := [0x8000000000000001] } : State).commands = 0x8000000000000001 :: [] ∧
    ¬stopped.Running ∧ (0x8000000000000001 : Command) ≠ encode .reset ∧ Instr.loadEa ≠ .reset := by decide

theorem witness_ParametersNeverChange :
    step { unit with commands := [1, 2] } = .next (left (step { unit with commands := [1, 2] })) := rfl

theorem witness_RegisterFileStaysCoherent :
    emulation.RegFileOk ∧ emulation.flagE = true ∧
    step (emulation.withFetchWord 64 0x0012340000000803) = .next (ran emulation 0x0012340000000803) := by
  refine ⟨fun _ => ⟨rfl, ?_, ?_, ?_⟩, rfl, rfl⟩ <;> (intro w hw; cases hw; rfl)

/-- A data latch whose second byte wraps in its page, under a `RESOLVE` that replaces it by a jump target. -/
theorem witness_LatchStaysCoherent :
    (dataLatch 2 0x00FFFF 0x00FF00).Ok ∧
    step ({ full with latch := dataLatch 2 0x00FFFF 0x00FF00 }.withFetchWord 64 0x638) =
      .next (ran { full with latch := dataLatch 2 0x00FFFF 0x00FF00 } 0x638) := by
  refine ⟨⟨nofun, .inr (.inr rfl), nofun, nofun, fun _ => ?_, nofun⟩, rfl⟩
  exact ⟨rfl, by decide, .inl ⟨rfl, rfl, rfl⟩, by decide⟩

theorem witness_MemoryStaysCanonical :
    emulation.mem.wf = true ∧
    step (emulation.withFetchWord 64 0x0000AA1234560005) = .next (ran emulation 0x0000AA1234560005) :=
  ⟨by decide, rfl⟩

theorem witness_PowerOnStateIsSafe : Memory.wf [(0, 0x12), (0xFFFFFF, 0x34)] = true := by decide

end Sys2Proof.Tests
end

/-! PROOFS: no step changes the parameters, and a step consumes exactly the oldest pending command (log entries 1
and 2). The two fields of the model's own are kept by every state update, hence by every effect of a command. -/

namespace Sys2Proof.Machine

/-! ### The updates of several fields keep the parameters and the pending commands -/

@[simp] theorem writeE_params (s : State) (b : Bool) : (writeE s b).params = s.params := by
  unfold writeE
  split <;> rfl

@[simp] theorem writeE_commands (s : State) (b : Bool) : (writeE s b).commands = s.commands := by
  unfold writeE
  split <;> rfl

@[simp] theorem storeReg_params (s : State) (r : Reg) (v : Word) : (storeReg s r v).params = s.params := by
  cases r <;> simp [storeReg]

@[simp] theorem storeReg_commands (s : State) (r : Reg) (v : Word) : (storeReg s r v).commands = s.commands := by
  cases r <;> simp [storeReg]

@[simp] theorem writeData_params (s : State) (w : Width) (lo hi : Addr) (v : Word) :
    (writeData s w lo hi v).params = s.params := by
  cases w <;> rfl

@[simp] theorem writeData_commands (s : State) (w : Width) (lo hi : Addr) (v : Word) :
    (writeData s w lo hi v).commands = s.commands := by
  cases w <;> rfl

@[simp] theorem completeResolve_params (s : State) (t : ModeTag) (w : Width) (r : ModeResult) :
    (completeResolve s t w r).params = s.params := rfl

@[simp] theorem completeResolve_commands (s : State) (t : ModeTag) (w : Width) (r : ModeResult) :
    (completeResolve s t w r).commands = s.commands := rfl

@[simp] theorem commitTo_params (s : State) (v : Word) : (commitTo s v).params = s.params := rfl

@[simp] theorem commitTo_commands (s : State) (v : Word) : (commitTo s v).commands = s.commands := rfl

/-! ### Commands, rejected words and steps -/

theorem Effect.params_eq {i : Instr} {s t : State} (h : Effect i s t) : t.params = s.params := by
  cases h <;> simp

theorem Effect.commands_eq {i : Instr} {s t : State} (h : Effect i s t) : t.commands = s.commands := by
  cases h <;> simp

theorem rejectWord_keeps_params_commands {s t : State} {f : FaultReg} (h : rejectWord f s = .next t) :
    t.params = s.params ∧ t.commands = s.commands := by
  rcases rejectWord_cases h with ⟨-, rfl⟩ | ⟨-, rfl⟩
  · exact ⟨raise_params s f, raise_commands s f⟩
  · exact ⟨rfl, rfl⟩

/-- Settles O42: an idle step changes nothing, and taking the oldest word off the list is the only way a step touches
either field, since no command and no rejected word does. -/
theorem parametersNeverChange : Obligations.ParametersNeverChange := by
  intro s t h
  rcases step_cases h with ⟨hnil, rfl⟩ | ⟨w, rest, i, hcons, -, hexec⟩ | ⟨w, rest, f, hcons, -, hreject⟩
  · exact ⟨rfl, by simp [hnil]⟩
  · have heffect := exec_effect hexec
    exact ⟨heffect.params_eq, by simp [hcons, heffect.commands_eq]⟩
  · obtain ⟨hparams, hcommands⟩ := rejectWord_keeps_params_commands hreject
    exact ⟨hparams, by simp [hcons, hcommands]⟩

end Sys2Proof.Machine

/-! PROOFS: the register file (R25) and the result latch (R31, R32) keep their invariants. An invariant that every
effect of a command keeps holds after every step; a completed `RESOLVE` replaces the latch by one of four shapes, one
for each kind of result. -/

namespace Sys2Proof.Machine

/-- A property that does not read the pending commands, and that a recorded fault and every command keep, is kept by
every step. -/
theorem step_keeps {P : State → Prop} (hpending : ∀ s rest, P s → P { s with commands := rest })
    (hraise : ∀ s f, P s → P (s.raise f)) (hcommand : ∀ i s t, P s → Effect i s t → P t)
    {s t : State} (hs : P s) (h : step s = .next t) : P t := by
  rcases step_cases h with ⟨-, rfl⟩ | ⟨w, rest, i, -, -, hexec⟩ | ⟨w, rest, f, -, -, hreject⟩
  · exact hs
  · exact hcommand i _ t (hpending s rest hs) (exec_effect hexec)
  · rcases rejectWord_cases hreject with ⟨-, rfl⟩ | ⟨-, rfl⟩
    · exact hraise _ f (hpending s rest hs)
    · exact hpending s rest hs

/-! ### The register file -/

/-- Truncation to the 8-bit index width clears the high byte (R95, R96). -/
theorem highByteIs_indexStored (v : Option Word) : highByteIs (v.map (indexStored true)) 0 := by
  intro w hw
  obtain ⟨u, -, rfl⟩ := Option.mem_map.1 hw
  simp only [indexStored, if_true]
  ext i hi
  simp

/-- The stack pointer is pinned to page 1 (R95, R96). -/
theorem highByteIs_stackStored (v : Option Word) : highByteIs (v.map (stackStored true)) 0x01 := by
  intro w hw
  obtain ⟨u, -, rfl⟩ := Option.mem_map.1 hw
  exact BitVec.extractLsb'_append_eq_left

/-- Entering emulation establishes the invariant whatever the registers held (R96). -/
theorem enterEmulation_regFileOk (s : State) : (enterEmulation s).RegFileOk := fun _ =>
  ⟨rfl, highByteIs_indexStored s.regX, highByteIs_indexStored s.regY, highByteIs_stackStored s.regS⟩

theorem writeE_regFileOk {s : State} (h : s.RegFileOk) (b : Bool) : (writeE s b).RegFileOk := by
  unfold writeE
  split
  · exact enterEmulation_regFileOk s
  · next hb =>
    intro hE
    obtain rfl : b = true := hE
    exact h (by simpa using hb)

theorem writeXF_regFileOk {s : State} (h : s.RegFileOk) (b : Bool) : (writeXF s b).RegFileOk := by
  intro (hE : s.flagE = true)
  obtain ⟨hXF, hx, hy, hs⟩ := h hE
  exact ⟨by simp [hE, hXF], hx, hy, hs⟩

/-- Only the write rules of `X`, `Y`, `S`, `E` and `XF` touch what the invariant speaks of (R95). -/
theorem storeReg_regFileOk {s : State} (h : s.RegFileOk) (r : Reg) (v : Word) : (storeReg s r v).RegFileOk := by
  cases r with
  | x =>
    intro hE
    obtain ⟨hXF, -, hy, hs⟩ := h hE
    refine ⟨hXF, ?_, hy, hs⟩
    simpa [storeReg, hXF] using highByteIs_indexStored (some v)
  | y =>
    intro hE
    obtain ⟨hXF, hx, -, hs⟩ := h hE
    refine ⟨hXF, hx, ?_, hs⟩
    simpa [storeReg, hXF] using highByteIs_indexStored (some v)
  | s =>
    intro (hE : s.flagE = true)
    obtain ⟨hXF, hx, hy, -⟩ := h hE
    refine ⟨hXF, hx, hy, ?_⟩
    simpa [storeReg, hE] using highByteIs_stackStored (some v)
  | e => exact writeE_regFileOk h _
  | xf => exact writeXF_regFileOk h _
  | a | d | dbr | pbr | pc | m | cyc => exact h

theorem writeData_regFileOk {s : State} (h : s.RegFileOk) (w : Width) (lo hi : Addr) (v : Word) :
    (writeData s w lo hi v).RegFileOk := by
  cases w <;> exact h

/-- The state after `RESET` is in emulation mode, with 8-bit index registers and none of them defined (R232). -/
theorem applyReset_regFileOk (s : State) : s.applyReset.RegFileOk := fun _ => ⟨rfl, nofun, nofun, nofun⟩

theorem Effect.regFileOk {i : Instr} {s t : State} (h : s.RegFileOk) (heffect : Effect i s t) : t.RegFileOk := by
  cases heffect with
  | reset => exact applyReset_regFileOk s
  | storedReg r v => exact storeReg_regFileOk h r v
  | storedData w lo hi v => exact writeData_regFileOk h w lo hi v
  | ignored | raised | responded | resolved | committed => exact h

/-- Settles O43: only `RESET` and the write rules of `WRITE_REG` reach the registers the invariant speaks of, and each
keeps it. -/
theorem registerFileStaysCoherent : Obligations.RegisterFileStaysCoherent := fun _ _ =>
  step_keeps (fun _ _ h => h) (fun _ _ h => h) (fun _ _ _ => Effect.regFileOk)

/-! ### The address of the second byte -/

theorem offOf_bankFixed (a : Addr) (n : Nat) : offOf (bankFixed a n) = offOf a + BitVec.ofNat 16 n := by
  simp [bankFixed, BitVec.ofNat_add]

theorem offOf_bankCarry (a : Addr) (n : Nat) : offOf (bankCarry a n) = offOf a + BitVec.ofNat 16 n := by
  simp [bankCarry, BitVec.ofNat_add]

@[simp] theorem bankOf_bankFixed (a : Addr) (n : Nat) : bankOf (bankFixed a n) = bankOf a := bankOf_a24 _ _

theorem bankFixed_one_ne (a : Addr) : bankFixed a 1 ≠ a := by
  intro h
  have hoff := offOf_bankFixed a 1
  rw [h] at hoff
  bv_omega

theorem bankCarry_one_ne (a : Addr) : bankCarry a 1 ≠ a := by
  intro h
  have hoff := offOf_bankCarry a 1
  rw [h] at hoff
  bv_omega

theorem lowByte_pageFixed (a : Addr) (n : Nat) :
    (offOf (pageFixed a n)).extractLsb' 0 8 = (offOf a).extractLsb' 0 8 + BitVec.ofNat 8 n := by
  unfold pageFixed
  rw [offOf_a24, BitVec.extractLsb'_append_eq_right, BitVec.ofNat_add, BitVec.ofNat_toNat, BitVec.setWidth_eq]

theorem pageFixed_one_ne (a : Addr) : pageFixed a 1 ≠ a := by
  intro h
  have hlow := lowByte_pageFixed a 1
  rw [h] at hlow
  bv_omega

/-- With and without page wrap, the second byte of direct data is not at the first (R133). -/
theorem dpNext_ne (s : State) (a : Addr) : dpNext s a ≠ a := by
  unfold dpNext
  split
  · exact pageFixed_one_ne a
  · exact bankFixed_one_ne a

/-! ### What a mode rule returns -/

/-- The results a mode rule of tag `t` returns at width `w`, one shape for each kind (R32): no value; an immediate of
`w` bytes; data at two distinct addresses; a jump target whose successor is in its bank. The last two may have fetched a
pointer. -/
inductive ModeResult.Shape (t : ModeTag) (w : Width) : ModeResult → Prop where
  | none : t = .imp → Shape t w { kind := .none, len := 0, cross := false }
  | imm {v : Word} : t = .imm → Shape t w { kind := .imm, imm := v, len := widthBits w, cross := false }
  | data {ea ea2 : Addr} {len pn : BitVec 2} {pa pv : Addr} {cross : Bool} : ea2 ≠ ea → 1 ≤ len.toNat →
      (pn = 0 ∧ pa = 0 ∧ pv = 0) ∨ pn = 2 ∨ pn = 3 →
      Shape t w { kind := .data, ea, ea2, len, pn, pa, pv, cross }
  | jump {ea : Addr} {pn : BitVec 2} {pa pv : Addr} : (pn = 0 ∧ pa = 0 ∧ pv = 0) ∨ pn = 2 →
      Shape t w { kind := .jump, ea, ea2 := bankFixed ea 1, len := 2, pn, pa, pv, cross := false }

namespace ModeResult.Shape

variable {t : ModeTag} {w : Width}

/-- Data whose address needs no pointer. -/
theorem plainData {ea ea2 : Addr} {len : BitVec 2} {cross : Bool} (hne : ea2 ≠ ea) (hlen : 1 ≤ len.toNat) :
    Shape t w { kind := .data, ea, ea2, len, cross } :=
  .data hne hlen (.inl ⟨rfl, rfl, rfl⟩)

/-- Data behind a pointer of one operand byte: its second byte is at the bank-carry successor. -/
theorem pointedData {ea pa pv : Addr} {pn : BitVec 2} {cross : Bool} (hpn : pn = 2 ∨ pn = 3) :
    Shape t w { kind := .data, ea, ea2 := bankCarry ea 1, len := 1, pn, pa, pv, cross } :=
  .data (bankCarry_one_ne ea) (by decide) (.inr hpn)

end ModeResult.Shape

section Rules

open ModeResult

variable {t : ModeTag} {w : Width} {index : State → Except FaultReg Word} {s : State} {op : BitVec 24}
  {r : ModeResult}

theorem directData_shape (s : State) (a : Addr) : Shape t w (directData s a) :=
  .plainData (dpNext_ne s a) (by decide)

theorem directPointed_shape (s : State) (pa : Addr) : Shape t w (directPointed s pa) := .pointedData (.inl rfl)

theorem jumpThrough_shape (s : State) (pa : Addr) : Shape t w (jumpThrough s pa) := .jump (.inr rfl)

theorem modeImm_shape (h : modeImm s w op = .ok r) : Shape .imm w r := by
  cases w <;> cases h <;> exact .imm rfl

theorem absIndexed_shape (h : absIndexed index s w op = .ok r) : Shape t w r := by
  unfold absIndexed at h
  split at h <;> cases h
  exact .plainData (bankCarry_one_ne _) (by decide)

theorem modeAbsXInd_shape (h : modeAbsXInd s w op = .ok r) : Shape t w r := by
  unfold modeAbsXInd at h
  split at h <;> cases h
  exact jumpThrough_shape s _

theorem modeAbsLX_shape (h : modeAbsLX s w op = .ok r) : Shape t w r := by
  unfold modeAbsLX at h
  split at h <;> cases h
  exact .plainData (bankCarry_one_ne _) (by decide)

theorem directIndexed_shape (h : directIndexed index s w op = .ok r) : Shape t w r := by
  unfold directIndexed at h
  split at h <;> cases h
  exact directData_shape s _

theorem modeDpXInd_shape (h : modeDpXInd s w op = .ok r) : Shape t w r := by
  unfold modeDpXInd at h
  split at h <;> cases h
  exact directPointed_shape s _

theorem modeDpIndY_shape (h : modeDpIndY s w op = .ok r) : Shape t w r := by
  simp only [modeDpIndY] at h
  split at h <;> cases h
  exact .pointedData (.inl rfl)

theorem modeDpIndLY_shape (h : modeDpIndLY s w op = .ok r) : Shape t w r := by
  simp only [modeDpIndLY] at h
  split at h <;> cases h
  exact .pointedData (.inr rfl)

theorem modeSr_shape (h : modeSr s w op = .ok r) : Shape t w r := by
  unfold modeSr at h
  split at h <;> cases h
  exact .plainData (bankFixed_one_ne _) (by decide)

theorem modeSrIndY_shape (h : modeSrIndY s w op = .ok r) : Shape t w r := by
  simp only [modeSrIndY] at h
  split at h
  · cases h
  · split at h <;> cases h
    exact .pointedData (.inl rfl)

/-- Everything the mode rule of a tag can return. -/
theorem ruleOf_shape (h : ruleOf t s w op = .ok r) : Shape t w r := by
  cases t with
  | imp => cases h; exact .none rfl
  | imm => exact modeImm_shape (s := s) h
  | abs => cases h; exact .plainData (bankCarry_one_ne _) (by decide)
  | absJmp => cases h; exact .jump (.inl ⟨rfl, rfl, rfl⟩)
  | absX | absY => exact absIndexed_shape h
  | absInd => cases h; exact jumpThrough_shape s _
  | absXInd => exact modeAbsXInd_shape h
  | dp => cases h; exact directData_shape s _
  | dpX | dpY => exact directIndexed_shape h
  | dpInd => cases h; exact directPointed_shape s _
  | dpIndL => cases h; exact .pointedData (.inr rfl)
  | dpXInd => exact modeDpXInd_shape h
  | dpIndY => exact modeDpIndY_shape h
  | dpIndLY => exact modeDpIndLY_shape h
  | absL => cases h; exact .plainData (bankCarry_one_ne _) (by decide)
  | absLX => exact modeAbsLX_shape h
  | sr => exact modeSr_shape h
  | srIndY => exact modeSrIndY_shape h

end Rules

/-! ### The result latch -/

theorem widthBits_eq (w : Width) : widthBits w = 1 ∨ widthBits w = 2 := by
  cases w with
  | byte => exact .inl rfl
  | word => exact .inr rfl

/-- A result of one of the four shapes makes a coherent latch (R137). -/
theorem latchOf_ok {p : Params} {t : ModeTag} {w : Width} {r : ModeResult} (h : r.Shape t w) :
    (latchOf p t w r).Ok := by
  have hw := widthBits_eq w
  cases h with
  | none ht => exact ⟨nofun, .inr hw, fun _ => ⟨ht, rfl, rfl, rfl, rfl, ⟨rfl, rfl, rfl⟩, rfl⟩, nofun, nofun, nofun⟩
  | imm ht => exact ⟨nofun, .inr hw, nofun, fun _ => ⟨ht, rfl, rfl, rfl, ⟨rfl, rfl, rfl⟩, rfl⟩, nofun, nofun⟩
  | data hne hlen hp => exact ⟨nofun, .inr hw, nofun, nofun, fun _ => ⟨rfl, hne, hp, hlen⟩, nofun⟩
  | jump hp =>
    exact ⟨nofun, .inr hw, nofun, nofun, nofun,
      fun _ => ⟨rfl, bankOf_bankFixed _ 1, offOf_bankFixed _ 1, rfl, rfl, hp⟩⟩

theorem Latch.invalid_ok : Latch.invalid.Ok := ⟨fun _ => rfl, .inl rfl, nofun, nofun, nofun, nofun⟩

@[simp] theorem writeE_latch (s : State) (b : Bool) : (writeE s b).latch = s.latch := by
  unfold writeE
  split <;> rfl

@[simp] theorem storeReg_latch (s : State) (r : Reg) (v : Word) : (storeReg s r v).latch = s.latch := by
  cases r with
  | e => exact writeE_latch s _
  | a | x | y | s | d | dbr | pbr | pc | m | xf | cyc => rfl

@[simp] theorem writeData_latch (s : State) (w : Width) (lo hi : Addr) (v : Word) :
    (writeData s w lo hi v).latch = s.latch := by
  cases w <;> rfl

theorem Effect.latch_ok {i : Instr} {s t : State} (h : s.latch.Ok) (heffect : Effect i s t) : t.latch.Ok := by
  cases heffect with
  | reset | committed => exact Latch.invalid_ok
  | resolved _ _ _ _ _ _ hrule => exact latchOf_ok (ruleOf_shape hrule)
  | storedReg r v => rwa [respond_latch, storeReg_latch]
  | storedData w lo hi v => rwa [respond_latch, writeData_latch]
  | ignored | raised | responded => exact h

/-- Settles O44: a step keeps the latch, empties it, or replaces it by the result of a mode rule, which has the shape of
its kind. -/
theorem latchStaysCoherent : Obligations.LatchStaysCoherent := fun _ _ =>
  step_keeps (P := fun s => s.latch.Ok) (fun _ _ h => h) (fun _ _ h => h) (fun _ _ _ => Effect.latch_ok)

end Sys2Proof.Machine

/-! PROOFS: memory (R46 to R53). A byte changes only where a command stores, a word written is the word read back, and
the canonical form of memory is kept. -/

namespace Sys2Proof.Machine

/-! ### The successor address and the bytes of a word -/

/-- Bank-carry addition is addition of the whole address, modulo 2^24 (R125). -/
theorem bankCarry_eq_add (a : Addr) (n : Nat) : bankCarry a n = a + BitVec.ofNat 24 n := by
  apply BitVec.eq_of_toNat_eq
  unfold bankCarry
  rw [a24_toNat, BitVec.toNat_ofNat, BitVec.toNat_ofNat, bankOf_toNat, offOf_toNat, BitVec.toNat_add,
    BitVec.toNat_ofNat]
  omega

/-- A word is its high byte and its low byte (R52). -/
theorem highByte_append_lowByte (v : Word) : v.extractLsb' 8 8 ++ v.extractLsb' 0 8 = v := by
  rw [BitVec.extractLsb'_append_extractLsb'_eq_extractLsb' (by rfl), BitVec.extractLsb'_eq_self]

/-! ### The updates that keep memory -/

@[simp] theorem writeE_mem (s : State) (b : Bool) : (writeE s b).mem = s.mem := by
  unfold writeE
  split <;> rfl

@[simp] theorem storeReg_mem (s : State) (r : Reg) (v : Word) : (storeReg s r v).mem = s.mem := by
  cases r with
  | e => exact writeE_mem s _
  | a | x | y | s | d | dbr | pbr | pc | m | xf | cyc => rfl

@[simp] theorem completeResolve_mem (s : State) (t : ModeTag) (w : Width) (r : ModeResult) :
    (completeResolve s t w r).mem = s.mem := rfl

@[simp] theorem commitTo_mem (s : State) (v : Word) : (commitTo s v).mem = s.mem := rfl

/-! ### The canonical form -/

theorem Effect.mem_wf {i : Instr} {s t : State} (h : s.mem.wf = true) (heffect : Effect i s t) :
    t.mem.wf = true := by
  cases heffect with
  | storedData w lo hi v =>
    obtain ⟨-, hwf, -⟩ := writeData_spec (w := w) (lo := lo) (hi := hi) (v := v) h
    exact hwf
  | storedReg r v => rwa [respond_mem, storeReg_mem]
  | ignored | reset | raised | responded | resolved | committed => exact h

/-- Settles O45: a store keeps the canonical form, and nothing else a step does touches memory. -/
theorem memoryStaysCanonical : Obligations.MemoryStaysCanonical := fun _ _ =>
  step_keeps (P := fun s => s.mem.wf = true) (fun _ _ h => h) (fun _ _ h => h) (fun _ _ _ => Effect.mem_wf)

/-! ### Which bytes a command changes -/

/-- The width and the two byte addresses of the data a command stores in state `s` (R111, R113, R202). -/
inductive StoreTarget (s : State) : Instr → Width → Addr → Addr → Prop where
  | writeByte (a : Addr) (v : Word) : StoreTarget s (.writeByte a v) .byte a a
  | writeOperand (a : Addr) (ws : WSel) (v : Word) :
      StoreTarget s (.writeOperand a ws v) (widthOf s ws) a (bankCarry a 1)
  | storeEa (v : Word) : s.latch.kind = .data →
      StoreTarget s (.storeEa v) s.latch.width s.latch.ea s.latch.ea2

/-- What a command does to memory: it leaves every byte, or stores data at its target. -/
inductive MemEffect (i : Instr) (s t : State) : Prop where
  | kept : t.mem = s.mem → MemEffect i s t
  | stored {w : Width} {lo hi : Addr} (v : Word) : StoreTarget s i w lo hi →
      t.mem = (writeData s w lo hi v).mem → MemEffect i s t

theorem MemEffect.of_whenRunning {i : Instr} {s t : State} {r : Result} (h : whenRunning s r = .next t)
    (hr : r = .next t → MemEffect i s t) : MemEffect i s t := by
  rcases whenRunning_cases h with ⟨-, h⟩ | ⟨-, rfl⟩
  · exact hr h
  · exact .kept rfl

theorem resolveWith_mem {t : ModeTag} {rule : ModeRule} {ws : WSel} {op : BitVec 24} {s u : State}
    (h : resolveWith t rule ws op s = .next u) : u.mem = s.mem := by
  rcases resolveWith_cases h with ⟨-, f, -, rfl⟩ | ⟨-, r, -, rfl⟩ | ⟨-, rfl⟩
  · exact raise_mem s f
  · exact completeResolve_mem s t _ r
  · rfl

/-- Everything a command can do to memory. -/
theorem exec_memEffect {i : Instr} {s t : State} (h : exec i s = .next t) : MemEffect i s t := by
  cases i with
  | reset => cases h; exact .kept rfl
  | readReg r =>
    refine .of_whenRunning h fun h => ?_
    split at h <;> cases h <;> exact .kept rfl
  | writeReg r v =>
    refine .of_whenRunning h fun h => ?_
    split at h
    · cases h; exact .kept rfl
    · split at h <;> cases h
      · exact .kept (storeReg_mem s r v)
      · exact .kept rfl
  | readByte a | readOperand a ws => exact .of_whenRunning h fun h => by cases h; exact .kept rfl
  | writeByte a v =>
    refine .of_whenRunning h fun h => ?_
    split at h <;> cases h
    · exact .stored v (.writeByte a v) rfl
    · exact .kept rfl
  | writeOperand a ws v =>
    refine .of_whenRunning h fun h => ?_
    split at h <;> cases h
    · exact .kept rfl
    · exact .stored v (.writeOperand a ws v) rfl
  | loadEa =>
    refine .of_whenRunning h fun h => ?_
    split at h <;> cases h <;> exact .kept rfl
  | storeEa v =>
    refine .of_whenRunning h fun h => ?_
    split at h
    · cases h; exact .kept rfl
    · next hkind =>
      split at h <;> cases h
      · exact .kept rfl
      · exact .stored v (.storeEa v (not_not.1 hkind)) rfl
  | commitPc =>
    refine .of_whenRunning h fun h => ?_
    split at h
    · cases h; exact .kept rfl
    · cases h; exact .kept rfl
    all_goals split at h <;> cases h <;> exact .kept rfl
  | resolveImp ws op | resolveImm ws op | resolveAbs ws op | resolveAbsJmp ws op | resolveAbsX ws op
  | resolveAbsY ws op | resolveAbsInd ws op | resolveAbsXInd ws op | resolveDp ws op | resolveDpX ws op
  | resolveDpY ws op | resolveDpInd ws op | resolveDpIndL ws op | resolveDpXInd ws op | resolveDpIndY ws op
  | resolveDpIndLY ws op | resolveAbsL ws op | resolveAbsLX ws op | resolveSr ws op | resolveSrIndY ws op =>
    rw [exec] at h
    exact .kept (resolveWith_mem h)

theorem memRead_congr {s t : State} (h : t.mem = s.mem) (a : Addr) : memRead t a = memRead s a :=
  congrArg (readAt · a.toNat) h

/-- A byte that a write of data changes is one of those it stores. -/
theorem stored_of_memRead_ne {s : State} {w : Width} {lo hi a : Addr} {v : Word} (hm : s.mem.wf = true)
    (hne : memRead (writeData s w lo hi v) a ≠ memRead s a) : a = lo ∨ (w = .word ∧ a = hi) := by
  obtain ⟨-, -, hread⟩ := writeData_spec (w := w) (lo := lo) (hi := hi) (v := v) hm
  by_contra! hnot
  obtain ⟨hlo, hhi⟩ := hnot
  exact hne (by rw [hread, if_neg (fun h => hhi h.1 h.2), if_neg hlo])

theorem Latch.width_eq_word {l : Latch} : l.width = .word ↔ l.w = 2 := by
  simp [Latch.width]

theorem StoreTarget.storesTo {s : State} {i : Instr} {w : Width} {lo hi a : Addr} (h : StoreTarget s i w lo hi)
    (ha : a = lo ∨ (w = .word ∧ a = hi)) : Claims.StoresTo s a i := by
  cases h with
  | writeByte => exact ha.elim id And.right
  | writeOperand => rwa [bankCarry_eq_add] at ha
  | storeEa _ hkind => exact ⟨hkind, ha.imp_right (And.imp_left Latch.width_eq_word.1)⟩

/-- Settles O37: only three commands store data, each at the addresses the statement lists, and a store leaves every
other byte alone. -/
theorem onlyStoresChangeMemory : Obligations.OnlyStoresChangeMemory := by
  intro s t i a hm h hne
  cases exec_memEffect h with
  | kept hmem => exact absurd (memRead_congr hmem a) hne
  | stored v htarget hmem =>
    rw [memRead_congr hmem] at hne
    exact htarget.storesTo (stored_of_memRead_ne hm hne)

/-! ### Data written and read back -/

/-- A word stored at two distinct addresses reads back whole, whatever response the store leaves (R52). -/
theorem readData_stored_word {s : State} {lo hi : Addr} (v : Word) (r : BitVec 64) (hm : s.mem.wf = true)
    (hne : hi ≠ lo) : readData ((writeData s .word lo hi v).respond r) .word lo hi = v := by
  obtain ⟨-, -, hread⟩ := writeData_spec (w := .word) (lo := lo) (hi := hi) (v := v) hm
  have hhi : memRead (writeData s .word lo hi v) hi = v.extractLsb' 8 8 := by simp [hread]
  have hlo : memRead (writeData s .word lo hi v) lo = v.extractLsb' 0 8 := by simp [hread, hne.symm]
  change memRead2 (writeData s .word lo hi v) lo hi = v
  rw [memRead2, hhi, hlo, highByte_append_lowByte]

theorem exec_readOperand {s : State} {a : Addr} {ws : WSel} {v : Word} (hs : s.Running)
    (hv : readData s (widthOf s ws) a (bankCarry a 1) = v) :
    exec (.readOperand a ws) s = .next (s.respond (v.setWidth 64)) := by
  rw [← hv]
  exact whenRunning_of_running hs

/-- `WRITE_OPERAND` of a word checks no range (R113). -/
theorem exec_writeOperand_word {s : State} {ws : WSel} (hs : s.Running) (hw : widthOf s ws = .word) (a : Addr)
    (v : Word) :
    exec (.writeOperand a ws v) s = .next ((writeData s .word a (bankCarry a 1) v).respond 0) := by
  change whenRunning s _ = _
  rw [whenRunning_of_running hs, hw, if_neg (by simp)]

theorem exec_loadEa_data {s : State} {v : Word} (hs : s.Running) (hkind : s.latch.kind = .data)
    (hv : readData s s.latch.width s.latch.ea s.latch.ea2 = v) :
    exec .loadEa s = .next (s.respond (v.setWidth 64)) := by
  change whenRunning s _ = _
  rw [whenRunning_of_running hs, hkind, ← hv]

/-- `STORE_EA` of a word checks no range (R202). -/
theorem exec_storeEa_word {s : State} (hs : s.Running) (hkind : s.latch.kind = .data) (hw : s.latch.w = 2)
    (v : Word) :
    exec (.storeEa v) s = .next ((writeData s .word s.latch.ea s.latch.ea2 v).respond 0) := by
  change whenRunning s _ = _
  rw [whenRunning_of_running hs, if_neg (not_not.2 hkind), if_neg (by simp [hw]), Latch.width_eq_word.2 hw]

/-- Settles O20: both pairs of commands write and read at the same two addresses, which are distinct: an address and its
bank-carry successor, or the two of the latch. -/
theorem nextReadSeesTheWrite : Obligations.NextReadSeesTheWrite := by
  intro s a v hs hm
  refine ⟨⟨_, exec_writeOperand_word hs rfl a v, ?_⟩, fun hkind hw hne => ⟨_, exec_storeEa_word hs hkind hw v, ?_⟩⟩
  · exact exec_readOperand hs (readData_stored_word v 0 hm (bankCarry_one_ne a))
  · have hwidth : s.latch.width = .word := Latch.width_eq_word.2 hw
    refine exec_loadEa_data hs hkind ?_
    rw [respond_latch, writeData_latch, hwidth]
    exact readData_stored_word v 0 hm hne

end Sys2Proof.Machine

/-! PROOFS: the decoder and the encoder are inverse to each other (R64 to R76), a malformed word records the first
failing check of R76, and every step has a next state (log entries 1 and 6). -/

namespace Sys2Proof

open Claims

/-! ### One case per command: the `RESOLVE` constructors by their tag (R67) -/

/-- A property of every instruction: the commands of R66, `RESOLVE` once for all its mode tags. -/
theorem Instr.casesByCommand {P : Instr → Prop} (reset : P .reset) (readReg : ∀ r, P (.readReg r))
    (writeReg : ∀ r v, P (.writeReg r v)) (readByte : ∀ a, P (.readByte a))
    (writeByte : ∀ a v, P (.writeByte a v)) (readOperand : ∀ a ws, P (.readOperand a ws))
    (writeOperand : ∀ a ws v, P (.writeOperand a ws v))
    (resolve : ∀ t ws op, P (resolveInstr t ws op)) (loadEa : P .loadEa) (storeEa : ∀ v, P (.storeEa v))
    (commitPc : P .commitPc) (i : Instr) : P i := by
  cases i with
  | reset => exact reset
  | readReg r => exact readReg r
  | writeReg r v => exact writeReg r v
  | readByte a => exact readByte a
  | writeByte a v => exact writeByte a v
  | readOperand a ws => exact readOperand a ws
  | writeOperand a ws v => exact writeOperand a ws v
  | resolveImp ws op => exact resolve .imp ws op
  | resolveImm ws op => exact resolve .imm ws op
  | resolveAbs ws op => exact resolve .abs ws op
  | resolveAbsJmp ws op => exact resolve .absJmp ws op
  | resolveAbsX ws op => exact resolve .absX ws op
  | resolveAbsY ws op => exact resolve .absY ws op
  | resolveAbsInd ws op => exact resolve .absInd ws op
  | resolveAbsXInd ws op => exact resolve .absXInd ws op
  | resolveDp ws op => exact resolve .dp ws op
  | resolveDpX ws op => exact resolve .dpX ws op
  | resolveDpY ws op => exact resolve .dpY ws op
  | resolveDpInd ws op => exact resolve .dpInd ws op
  | resolveDpIndL ws op => exact resolve .dpIndL ws op
  | resolveDpXInd ws op => exact resolve .dpXInd ws op
  | resolveDpIndY ws op => exact resolve .dpIndY ws op
  | resolveDpIndLY ws op => exact resolve .dpIndLY ws op
  | resolveAbsL ws op => exact resolve .absL ws op
  | resolveAbsLX ws op => exact resolve .absLX ws op
  | resolveSr ws op => exact resolve .sr ws op
  | resolveSrIndY ws op => exact resolve .srIndY ws op
  | loadEa => exact loadEa
  | storeEa v => exact storeEa v
  | commitPc => exact commitPc

@[simp] theorem encode_resolveInstr (t : ModeTag) (ws : WSel) (op : BitVec 24) :
    encode (resolveInstr t ws op) = encodeResolve t ws op := by
  cases t <;> rfl

/-! ### The word of the tables (R64 to R72) -/

theorem Reg.code_toNat (r : Reg) : r.code.toNat = regNumber r := by cases r <;> rfl

theorem WSel.code_toNat (ws : WSel) : ws.code.toNat = wselNumber ws := by cases ws <;> rfl

/-- The `match` of a `RESOLVE` row is the command code with the tag's code above it (R67). -/
theorem tableWord_resolveInstr (t : ModeTag) (ws : WSel) (op : BitVec 24) :
    tableWord (resolveInstr t ws op) = rowWord (0x008 + t.code.toNat * 2 ^ 4) (wselNumber ws) op.toNat 0 := by
  cases t <;> rfl

theorem packWord_eq_rowWord (cmd : BitVec 4) (mode : BitVec 5) (wsel : BitVec 2) (reg : BitVec 4) (op : BitVec 24)
    (data : BitVec 16) :
    packWord cmd mode wsel reg op data =
      rowWord (cmd.toNat + mode.toNat * 2 ^ 4 + reg.toNat * 2 ^ 11) wsel.toNat op.toNat data.toNat := by
  rw [packWord_eq_ofNat, rowWord]
  exact congrArg (BitVec.ofNat 64) (by omega)

theorem encode_eq_tableWord (i : Instr) : encode i = tableWord i := by
  induction i using Instr.casesByCommand with
  | resolve t ws op =>
    rw [encode_resolveInstr, encodeResolve, packWord_eq_rowWord, tableWord_resolveInstr, WSel.code_toNat]
    rfl
  | _ => simp [encode, tableWord, packWord_eq_rowWord, Cmd.code, Reg.code_toNat, WSel.code_toNat]

/-! ### Decoding an encoded instruction -/

theorem decode_of_cmdField {c : Cmd} {w : Command} (h : cmdField w = c.code) : decode w = decodeAs c w := by
  rw [decode, h, Cmd.ofCode_code]

/-- A packed word whose unused fields are zero passes check (3) of R76. -/
theorem checkUnused_packWord (c : Cmd) (i : Instr) {mode : BitVec 5} {wsel : BitVec 2} {reg : BitVec 4}
    {op : BitVec 24} {data : BitVec 16} (hm : c.usesMode = false → mode = 0) (hw : c.usesWsel = false → wsel = 0)
    (hr : c.usesReg = false → reg = 0) (ho : c.usesOp = false → op = 0) (hd : c.usesData = false → data = 0) :
    checkUnused c (packWord c.code mode wsel reg op data) i = .ok i :=
  if_pos (packWord_and_mustBeZero c hm hw hr ho hd)

theorem decode_encode (i : Instr) : decode (encode i) = .ok i := by
  induction i using Instr.casesByCommand with
  | resolve t ws op =>
    rw [encode_resolveInstr, encodeResolve, decode_of_cmdField (cmdField_packWord ..)]
    simp only [decodeAs, modeField_packWord, ModeTag.ofCode_code, wselField_packWord, WSel.ofCode_code,
      opField_packWord]
    rw [checkUnused_packWord] <;> simp [Cmd.usesMode, Cmd.usesWsel, Cmd.usesReg, Cmd.usesOp, Cmd.usesData]
  | reset | readReg | writeReg | readByte | writeByte | readOperand | writeOperand | loadEa | storeEa | commitPc =>
    rw [encode, decode_of_cmdField (cmdField_packWord ..)]
    simp only [decodeAs, regField_packWord, Reg.ofCode_code, wselField_packWord, WSel.ofCode_code, opField_packWord,
      dataField_packWord]
    rw [checkUnused_packWord] <;> simp [Cmd.usesMode, Cmd.usesWsel, Cmd.usesReg, Cmd.usesOp, Cmd.usesData]

/-- Settles O5: the fields of the encoded word stand where the tables put them, and the decoder reads each back, since
every code names one thing and the unused fields are zero. -/
theorem decodeOfEncodeIsTheInstruction : Obligations.DecodeOfEncodeIsTheInstruction := fun i =>
  ⟨encode_eq_tableWord i, decode_encode i⟩

/-- Settles O4: each of these words is the encoding of its instruction. -/
theorem sampleWordsDecode : Obligations.SampleWordsDecode :=
  ⟨decode_encode .reset, decode_encode (.readReg .cyc), decode_encode (.writeReg .x 0x1234),
    decode_encode (.writeByte 0x123456 0x00AA), decode_encode (.writeOperand 0x00FFFF .fixed16 0xCDAB),
    decode_encode (.resolveAbsX .fixed16 0x00FFFE), decode_encode (.resolveSrIndY .fixed16 0x000002),
    decode_encode (.storeEa 0xBEEF)⟩

/-! ### Encoding a decoded word -/

/-- A word is its fields at their places and its reserved bits (R64). -/
theorem packWord_fields_or_reserved (w : Command) :
    packWord (cmdField w) (modeField w) (wselField w) (regField w) (opField w) (dataField w) ||| w &&& reservedBits =
      w := by
  ext i h
  rw [BitVec.getElem_or, BitVec.getElem_and, ← BitVec.getLsbD_eq_getElem, packWord_getLsbD _ _ _ _ _ _ i h]
  simp only [cmdField, modeField, wselField, regField, opField, dataField, reservedBits]
  interval_cases i <;> simp

/-- The reserved bits must be zero in a word of every command (R65). -/
theorem and_reservedBits_of_and_mustBeZero {c : Cmd} {w : Command} (h : w &&& c.mustBeZero = 0#64) :
    w &&& reservedBits = 0#64 := by
  rw [show reservedBits = c.mustBeZero &&& reservedBits by cases c <;> decide, ← BitVec.and_assoc, h,
    BitVec.zero_and]

/-- A field with no bit under the mask of an unused field is zero where it is unused. -/
theorem eq_ite_used {n : Nat} {v : BitVec n} {used : Bool}
    (h : v &&& (if used then 0#n else BitVec.allOnes n) = 0#n) : v = if used then v else 0 := by
  cases used with
  | false => simpa using h
  | true => rfl

/-- A word with no bit set that must be zero is the fields its command uses, each at its place, and nothing else. -/
theorem eq_packWord_of_and_mustBeZero {c : Cmd} {w : Command} (hc : cmdField w = c.code)
    (h : w &&& c.mustBeZero = 0) :
    w = packWord c.code (if c.usesMode then modeField w else 0) (if c.usesWsel then wselField w else 0)
      (if c.usesReg then regField w else 0) (if c.usesOp then opField w else 0)
      (if c.usesData then dataField w else 0) := by
  have hw := packWord_fields_or_reserved w
  rw [and_reservedBits_of_and_mustBeZero h, BitVec.or_zero] at hw
  rw [← hw, Cmd.mustBeZero, packWord_and_mask] at h
  have hmode := (modeField_packWord ..).symm.trans (congrArg modeField h)
  have hwsel := (wselField_packWord ..).symm.trans (congrArg wselField h)
  have hreg := (regField_packWord ..).symm.trans (congrArg regField h)
  have hop := (opField_packWord ..).symm.trans (congrArg opField h)
  have hdata := (dataField_packWord ..).symm.trans (congrArg dataField h)
  rw [← eq_ite_used hmode, ← eq_ite_used hwsel, ← eq_ite_used hreg, ← eq_ite_used hop, ← eq_ite_used hdata, ← hc,
    hw]

theorem checkUnused_ok {c : Cmd} {w : Command} {i j : Instr} (h : checkUnused c w i = .ok j) :
    w &&& c.mustBeZero = 0 ∧ i = j := by
  unfold checkUnused at h
  split at h
  · next hw => exact ⟨hw, Except.ok.inj h⟩
  · cases h

theorem decode_ok {w : Command} {i : Instr} (h : decode w = .ok i) :
    ∃ c : Cmd, cmdField w = c.code ∧ decodeAs c w = .ok i := by
  unfold decode at h
  split at h
  · cases h
  · next c hc => exact ⟨c, (Cmd.code_of_ofCode _ _ hc).symm, h⟩

theorem encode_of_decodeAs {c : Cmd} {w : Command} {i : Instr} (hc : cmdField w = c.code)
    (h : decodeAs c w = .ok i) : encode i = w := by
  cases c with
  | readReg | writeReg =>
    simp only [decodeAs] at h
    split at h
    · cases h
    · next r hr =>
      obtain ⟨hw, rfl⟩ := checkUnused_ok h
      rw [encode, Reg.code_of_ofCode _ _ hr]
      exact (eq_packWord_of_and_mustBeZero hc hw).symm
  | resolve =>
    simp only [decodeAs] at h
    split at h
    · cases h
    · next t ht =>
      obtain ⟨hw, rfl⟩ := checkUnused_ok h
      rw [encode_resolveInstr, encodeResolve, ModeTag.code_of_ofCode _ _ ht, WSel.code_ofCode]
      exact (eq_packWord_of_and_mustBeZero hc hw).symm
  | readOperand | writeOperand =>
    obtain ⟨hw, rfl⟩ := checkUnused_ok h
    rw [encode, WSel.code_ofCode]
    exact (eq_packWord_of_and_mustBeZero hc hw).symm
  | reset | readByte | writeByte | loadEa | storeEa | commitPc =>
    obtain ⟨hw, rfl⟩ := checkUnused_ok h
    exact (eq_packWord_of_and_mustBeZero hc hw).symm

/-- Settles O6: an accepted word has no bit set outside the fields its command uses, and each code the decoder reads is
the code of what it reads. -/
theorem encodeOfDecodeIsTheWord : Obligations.EncodeOfDecodeIsTheWord := by
  intro w i h
  obtain ⟨c, hc, hdecode⟩ := decode_ok h
  exact encode_of_decodeAs hc hdecode

/-! ### Malformed words (R73 to R76) -/

theorem Cmd.ofCode_eq_none_iff : ∀ c : BitVec 4, Cmd.ofCode c = none ↔ c.toNat = 0 ∨ 0xC ≤ c.toNat := by decide

theorem Reg.ofCode_eq_none_iff : ∀ c : BitVec 4, Reg.ofCode c = none ↔ 0xC ≤ c.toNat := by decide

theorem ModeTag.ofCode_eq_none_iff : ∀ c : BitVec 5, ModeTag.ofCode c = none ↔ 0x14 ≤ c.toNat := by decide

theorem cmdField_toNat (w : Command) : (cmdField w).toNat = w.toNat % 16 := by
  simp [cmdField]

theorem modeField_toNat (w : Command) : (modeField w).toNat = w.toNat / 2 ^ 4 % 32 := by
  simp [modeField, Nat.shiftRight_eq_div_pow]

theorem regField_toNat (w : Command) : (regField w).toNat = w.toNat / 2 ^ 11 % 16 := by
  simp [regField, Nat.shiftRight_eq_div_pow]

/-- Check (1) of R76. -/
theorem decode_reservedCommand {w : Command} (h : w.toNat % 16 = 0 ∨ 0xC ≤ w.toNat % 16) :
    decode w = .error ⟨.invalidCommand, BitVec.ofNat 8 (w.toNat % 16)⟩ := by
  rw [← cmdField_toNat] at h ⊢
  rw [decode, (Cmd.ofCode_eq_none_iff _).2 h, BitVec.ofNat_toNat]

/-- A word whose `CMD` is not reserved is one of the commands of R66. -/
theorem exists_cmd {w : Command} (h : 1 ≤ w.toNat % 16) (h' : w.toNat % 16 < 0xC) :
    ∃ c : Cmd, cmdField w = c.code := by
  cases hc : Cmd.ofCode (cmdField w) with
  | none =>
    rw [Cmd.ofCode_eq_none_iff, cmdField_toNat] at hc
    omega
  | some c => exact ⟨c, (Cmd.code_of_ofCode _ _ hc).symm⟩

theorem cmdField_of_toNat {c : Cmd} {w : Command} (h : w.toNat % 16 = c.code.toNat) : cmdField w = c.code :=
  BitVec.eq_of_toNat_eq ((cmdField_toNat w).trans h)

/-- Check (2) of R76 on the mode of a `RESOLVE` (R73). -/
theorem decode_reservedMode {w : Command} (hc : w.toNat % 16 = 8) (h : 0x14 ≤ w.toNat / 2 ^ 4 % 32) :
    decode w = .error ⟨.invalidMode, BitVec.ofNat 8 (w.toNat / 2 ^ 4 % 32)⟩ := by
  rw [← modeField_toNat] at h ⊢
  rw [decode_of_cmdField (cmdField_of_toNat (c := .resolve) hc), BitVec.ofNat_toNat]
  simp only [decodeAs, (ModeTag.ofCode_eq_none_iff _).2 h]

/-- Check (2) of R76 on the register of `READ_REG` and `WRITE_REG` (R68). -/
theorem decode_reservedRegister {w : Command} (hc : w.toNat % 16 = 2 ∨ w.toNat % 16 = 3)
    (h : 0xC ≤ w.toNat / 2 ^ 11 % 16) :
    decode w = .error ⟨.invalidRegister, BitVec.ofNat 8 (w.toNat / 2 ^ 11 % 16)⟩ := by
  rw [← regField_toNat] at h ⊢
  rw [BitVec.ofNat_toNat]
  rcases hc with hc | hc
  · rw [decode_of_cmdField (cmdField_of_toNat (c := .readReg) hc)]
    simp only [decodeAs, (Reg.ofCode_eq_none_iff _).2 h]
  · rw [decode_of_cmdField (cmdField_of_toNat (c := .writeReg) hc)]
    simp only [decodeAs, (Reg.ofCode_eq_none_iff _).2 h]

/-- Where no code is reserved, check (3) of R76 alone decides whether the word decodes. -/
theorem decode_eq_checkUnused {w : Command} (hpos : 1 ≤ w.toNat % 16) (hlt : w.toNat % 16 < 0xC)
    (hmode : ¬(w.toNat % 16 = 8 ∧ 0x14 ≤ w.toNat / 2 ^ 4 % 32))
    (hreg : ¬((w.toNat % 16 = 2 ∨ w.toNat % 16 = 3) ∧ 0xC ≤ w.toNat / 2 ^ 11 % 16)) :
    ∃ c i, cmdField w = c.code ∧ decode w = checkUnused c w i := by
  obtain ⟨c, hc⟩ := exists_cmd hpos hlt
  rw [← cmdField_toNat, hc, ← modeField_toNat, ← ModeTag.ofCode_eq_none_iff] at hmode
  rw [← cmdField_toNat, hc, ← regField_toNat, ← Reg.ofCode_eq_none_iff] at hreg
  rw [decode_of_cmdField hc]
  cases c with
  | readReg | writeReg =>
    obtain ⟨r, hr⟩ := Option.ne_none_iff_exists'.1 (hreg ⟨by decide, ·⟩)
    simp only [decodeAs, hr]
    exact ⟨_, _, hc, rfl⟩
  | resolve =>
    obtain ⟨t, ht⟩ := Option.ne_none_iff_exists'.1 (hmode ⟨by decide, ·⟩)
    simp only [decodeAs, ht]
    exact ⟨_, _, hc, rfl⟩
  | reset | readByte | writeByte | readOperand | writeOperand | loadEa | storeEa | commitPc => exact ⟨_, _, hc, rfl⟩

theorem reservedBits_getLsbD : ∀ k < 64, reservedBits.getLsbD k = true ↔ k = 15 ∨ 56 ≤ k := by decide

theorem unusedField_getLsbD {n : Nat} (used : Bool) (j : Nat) :
    (if used then 0#n else BitVec.allOnes n).getLsbD j = true ↔ used = false ∧ j < n := by
  cases used <;> simp

/-- Which command codes leave a field unused, for each field of R65. -/
theorem unused_iff (c : Cmd) :
    (c.usesMode = false ↔ c.code.toNat ≠ 8) ∧
    (c.usesWsel = false ↔ c.code.toNat ≠ 6 ∧ c.code.toNat ≠ 7 ∧ c.code.toNat ≠ 8) ∧
    (c.usesReg = false ↔ c.code.toNat ≠ 2 ∧ c.code.toNat ≠ 3) ∧
    (c.usesOp = false ↔ c.code.toNat < 4 ∨ 8 < c.code.toNat) ∧
    (c.usesData = false ↔ c.code.toNat ≠ 3 ∧ c.code.toNat ≠ 5 ∧ c.code.toNat ≠ 7 ∧ c.code.toNat ≠ 10) := by
  cases c <;> decide

/-- The bits of the model's mask are the bits R65 lists, field by field. -/
theorem mustBeZero_getLsbD (c : Cmd) {k : Nat} (hk : k < 64) :
    c.mustBeZero.getLsbD k = true ↔ MustBeZero c.code.toNat k := by
  obtain ⟨hmode, hwsel, hreg, hop, hdata⟩ := unused_iff c
  rw [Cmd.mustBeZero, BitVec.getLsbD_or, packWord_getLsbD _ _ _ _ _ _ k hk, Bool.or_eq_true,
    reservedBits_getLsbD k hk]
  unfold MustBeZero
  split_ifs <;>
    simp only [unusedField_getLsbD, hmode, hwsel, hreg, hop, hdata, BitVec.ofNat_eq_ofNat, BitVec.getLsbD_zero,
      Bool.false_eq_true, or_false] <;>
    omega

theorem offends_iff {c : Cmd} {w : Command} (hc : cmdField w = c.code) (k : Nat) :
    Offends w k ↔ (w &&& c.mustBeZero).getLsbD k = true := by
  rw [Offends, ← cmdField_toNat, hc, BitVec.getLsbD_and, Bool.and_eq_true, and_comm]
  exact and_congr_right fun hw => (mustBeZero_getLsbD c (BitVec.lt_of_getLsbD hw)).symm

theorem checkUnused_of_lowest {c : Cmd} {w : Command} {k : Nat} (hc : cmdField w = c.code) (i : Instr)
    (hk : Offends w k) (hlow : ∀ j < k, ¬Offends w j) :
    checkUnused c w i = .error ⟨.reservedBitsSet, BitVec.ofNat 8 k⟩ := by
  simp only [offends_iff hc, Bool.not_eq_true] at hk hlow
  have hne : w &&& c.mustBeZero ≠ 0 := by
    intro h
    simp [h] at hk
  rw [checkUnused, if_neg hne, lowestSetBit_eq _ k hk hlow]

theorem checkUnused_of_not_offends {c : Cmd} {w : Command} (hc : cmdField w = c.code) (i : Instr)
    (h : ∀ k, ¬Offends w k) : checkUnused c w i = .ok i := by
  refine if_pos (BitVec.eq_of_getLsbD_eq fun k _ => ?_)
  simpa [offends_iff hc] using h k

end Sys2Proof

namespace Sys2Proof.Machine

open Claims

/-- A step on a rejected word takes the word and records its fault, and changes nothing else (R76, R214). -/
theorem step_of_rejected {s : State} {w : Command} {rest : List Command} {f : FaultReg}
    (hcons : s.commands = w :: rest) (hs : s.Running) (hw : decode w = .error f) :
    step s = .next { s with commands := rest, fault := f } := by
  rw [step_of_pending hcons, hw]
  exact whenRunning_of_running hs

/-- Settles O7: the checks of R76 in their order, the last of which reports the lowest offending bit. -/
theorem malformedWordsRecordTheirFault : Obligations.MalformedWordsRecordTheirFault := by
  intro s w rest hcons hs
  refine ⟨fun h => step_of_rejected hcons hs (decode_reservedCommand h),
    fun ⟨hc, h⟩ => step_of_rejected hcons hs (decode_reservedMode hc h),
    fun ⟨hc, h⟩ => step_of_rejected hcons hs (decode_reservedRegister hc h),
    fun hpos hlt hmode hreg k hk hlow => ?_, fun hpos hlt hmode hreg hnone => ?_⟩
  · obtain ⟨c, i, hc, hi⟩ := decode_eq_checkUnused hpos hlt hmode hreg
    exact step_of_rejected hcons hs (hi.trans (checkUnused_of_lowest hc i hk hlow))
  · obtain ⟨c, i, hc, hi⟩ := decode_eq_checkUnused hpos hlt hmode hreg
    exact ⟨i, hi.trans (checkUnused_of_not_offends hc i hnone)⟩

/-! ### Steps -/

/-- Settles O2: the word taken is the oldest one, and an encoded instruction decodes to itself, well-formed or not. -/
theorem stepRunsTheDecodedCommand : Obligations.StepRunsTheDecodedCommand := by
  intro s w rest i hcons
  have hrun : decode w = .ok i → step s = exec i { s with commands := rest } := by
    intro hw
    rw [step_of_pending hcons, hw]
  exact ⟨hrun, fun _ hw => hrun (hw ▸ decode_encode i)⟩

/-- Settles O3: with no word pending there is none to take. -/
theorem idleWithoutCommand : Obligations.IdleWithoutCommand := by
  intro s hnil
  simp [step, nextCommand, hnil]

theorem whenRunning_next {s : State} {r : Result} (h : ∃ t, r = .next t) : ∃ t, whenRunning s r = .next t := by
  unfold whenRunning
  split
  · exact h
  · exact ⟨s, rfl⟩

theorem resolveWith_next (t : ModeTag) (rule : ModeRule) (ws : WSel) (op : BitVec 24) (s : State) :
    ∃ u, resolveWith t rule ws op s = .next u := by
  refine whenRunning_next ?_
  split <;> exact ⟨_, rfl⟩

/-- Every command has a next state: no arm of `exec` faults or is refused. -/
theorem exec_next (i : Instr) (s : State) : ∃ t, exec i s = .next t := by
  induction i using Instr.casesByCommand with
  | resolve t ws op =>
    rw [exec_resolveInstr]
    exact resolveWith_next ..
  | reset => exact ⟨_, rfl⟩
  | readByte | readOperand => exact whenRunning_next ⟨_, rfl⟩
  | readReg | writeByte | writeOperand | loadEa =>
    refine whenRunning_next ?_
    split <;> exact ⟨_, rfl⟩
  | writeReg | storeEa =>
    refine whenRunning_next ?_
    split
    · exact ⟨_, rfl⟩
    · split <;> exact ⟨_, rfl⟩
  | commitPc =>
    refine whenRunning_next ?_
    split
    · exact ⟨_, rfl⟩
    · exact ⟨_, rfl⟩
    all_goals split <;> exact ⟨_, rfl⟩

theorem rejectWord_next (f : FaultReg) (s : State) : ∃ t, rejectWord f s = .next t := whenRunning_next ⟨_, rfl⟩

/-- Settles O41: a step idles, runs a command or rejects a word, and each of the three ends in a next state. -/
theorem everyStepHasANextState : Obligations.EveryStepHasANextState := by
  refine fun s => ⟨?_, fun i => exec_next i s⟩
  cases hcons : s.commands with
  | nil => exact ⟨s, idleWithoutCommand s hcons⟩
  | cons w rest =>
    rw [step_of_pending hcons]
    split
    · exact exec_next ..
    · exact rejectWord_next ..

/-! ### Width selects (R69) -/

theorem widthOfFlag_eq_byte {f : Bool} : widthOfFlag f = .byte ↔ f = true := by
  cases f <;> decide

/-- Settles O11: a flag selects one byte when it is 1 (R22, R23), and the index flag is 1 in emulation mode (R25). -/
theorem widthSelectFollowsTheFlags : Obligations.WidthSelectFollowsTheFlags := by
  refine fun s => ⟨widthOfFlag_eq_byte, widthOfFlag_eq_byte, rfl, rfl, fun hok hE => ?_⟩
  obtain ⟨hXF, -⟩ := hok hE
  exact widthOfFlag_eq_byte.2 hXF

end Sys2Proof.Machine

/-! PROOFS: the register-file commands (R91 to R97). `READ_REG` answers what `readReg` gives; `WRITE_REG` stores by the
write rule, or records why it does not; narrowing the index width leaves an index register that only a `RESOLVE`
rejects. -/

namespace Sys2Proof.Machine

open Claims

/-! ### `READ_REG` (R93) -/

theorem exec_readReg_of_ok {s : State} {r : Reg} {v : BitVec 64} (hs : s.Running) (h : readReg s r = .ok v) :
    exec (.readReg r) s = .next (s.respond v) := by
  change whenRunning s _ = _
  rw [whenRunning_of_running hs, h]

theorem exec_readReg_of_error {s : State} {r : Reg} {f : FaultReg} (hs : s.Running) (h : readReg s r = .error f) :
    exec (.readReg r) s = .next (s.raise f) := by
  change whenRunning s _ = _
  rw [whenRunning_of_running hs, h]

/-- A register with a definedness mark, with its value `v?`: while the mark is set, the value is read (R35). -/
theorem exec_readReg_of_some {s : State} {r : Reg} {v? : Option Word} {v : Word} (hs : s.Running)
    (hr : readReg s r = zext64 (definedValue r v?)) (hv : v? = some v) :
    exec (.readReg r) s = .next (s.respond (v.setWidth 64)) :=
  exec_readReg_of_ok hs (by rw [hr, hv]; rfl)

/-- A register with a definedness mark, with its value `v?`: while the mark is clear, a read raises (R35). -/
theorem exec_readReg_of_none {s : State} {r : Reg} {v? : Option Word} (hs : s.Running)
    (hr : readReg s r = zext64 (definedValue r v?)) (hv : v? = none) :
    exec (.readReg r) s = .next (s.raise (undefinedRegister r)) :=
  exec_readReg_of_error hs (by rw [hr, hv]; rfl)

theorem setWidth_ofBool (b : Bool) : (BitVec.ofBool b).setWidth 64 = if b then 1 else 0 := by
  cases b <;> rfl

theorem exec_readReg_flag {s : State} {r : Reg} {b : Bool} (hs : s.Running)
    (hr : readReg s r = .ok ((BitVec.ofBool b).setWidth 64)) :
    exec (.readReg r) s = .next (s.respond (if b then 1 else 0)) :=
  exec_readReg_of_ok hs (hr.trans (congrArg Except.ok (setWidth_ofBool b)))

/-- Settles O12: five registers carry a definedness mark; the others always hold a value. -/
theorem readRegReturnsTheRegister : Obligations.ReadRegReturnsTheRegister := fun _ hs =>
  ⟨fun _ => exec_readReg_of_some hs rfl, fun _ => exec_readReg_of_some hs rfl, fun _ => exec_readReg_of_some hs rfl,
    fun _ => exec_readReg_of_some hs rfl, fun _ => exec_readReg_of_some hs rfl,
    exec_readReg_of_ok hs rfl, exec_readReg_of_ok hs rfl, exec_readReg_of_ok hs rfl,
    exec_readReg_flag hs rfl, exec_readReg_flag hs rfl, exec_readReg_flag hs rfl, exec_readReg_of_ok hs rfl,
    exec_readReg_of_none hs rfl, exec_readReg_of_none hs rfl, exec_readReg_of_none hs rfl,
    exec_readReg_of_none hs rfl, exec_readReg_of_none hs rfl⟩

/-! ### `WRITE_REG` (R94) -/

/-- The read-only check comes before the range check on the data. -/
theorem exec_writeReg_cyc {s : State} (hs : s.Running) (v : Word) :
    exec (.writeReg .cyc v) s = .next (s.raise (readOnlyRegister .cyc)) :=
  whenRunning_of_running hs

theorem exec_writeReg_of_lt {s : State} {r : Reg} {v : Word} (hs : s.Running) (hr : r ≠ .cyc)
    (hv : v.toNat < 2 ^ r.bits) : exec (.writeReg r v) s = .next ((storeReg s r v).respond 0) := by
  change whenRunning s _ = _
  rw [whenRunning_of_running hs, if_neg hr, if_pos (fitsIn_iff.2 hv)]

/-- Data with bits above the width of the register: the lowest of them is reported, by its index in the word. -/
theorem exec_writeReg_of_lowestFrom {s : State} {r : Reg} {v : Word} {k : Nat} (hs : s.Running) (hr : r ≠ .cyc)
    (hk : LowestFrom v r.bits k) :
    exec (.writeReg r v) s = .next (s.raise ⟨.reservedBitsSet, BitVec.ofNat 8 (40 + k)⟩) := by
  obtain ⟨hn, -, hset, hlow⟩ := hk
  change whenRunning s _ = _
  rw [whenRunning_of_running hs, if_neg hr, if_neg (by simp [fitsIn_eq_false hn hset]), dataRangeFault_eq hn hset hlow]

/-- Settles O15: the two checks of R94, for each register narrower than its data. -/
theorem writeRegRejectsBadData : Obligations.WriteRegRejectsBadData := by
  refine fun s v hs => ⟨exec_writeReg_cyc hs v, fun k hk r hr => ?_, fun k hk r hr => ?_⟩
  · rcases hr with rfl | rfl <;> exact exec_writeReg_of_lowestFrom hs Reg.noConfusion hk
  · rcases hr with rfl | rfl | rfl <;> exact exec_writeReg_of_lowestFrom hs Reg.noConfusion hk

/-! ### The write rules (R95), as masks of the data -/

theorem lowByte_toNat (v : Word) : (v.extractLsb' 0 8).toNat = v.toNat &&& 0xFF := by
  rw [BitVec.extractLsb'_toNat, Nat.shiftRight_zero, ← Nat.and_two_pow_sub_one_eq_mod]

theorem indexStored_true (v : Word) : indexStored true v = v &&& 0x00FF := by
  apply BitVec.eq_of_toNat_eq
  change ((v.extractLsb' 0 8).setWidth 16).toNat = _
  rw [BitVec.toNat_setWidth_of_le (by decide), lowByte_toNat, BitVec.toNat_and]
  rfl

theorem stackStored_true (v : Word) : stackStored true v = 0x0100 ||| (v &&& 0x00FF) := by
  apply BitVec.eq_of_toNat_eq
  change (0x01#8 ++ v.extractLsb' 0 8).toNat = _
  rw [BitVec.toNat_append, lowByte_toNat, BitVec.toNat_or, BitVec.toNat_and]
  rfl

theorem indexStored_eq (b : Bool) (v : Word) : indexStored b v = if b then v &&& 0x00FF else v := by
  cases b with
  | false => rfl
  | true => exact indexStored_true v

theorem stackStored_eq (b : Bool) (v : Word) : stackStored b v = if b then 0x0100 ||| (v &&& 0x00FF) else v := by
  cases b with
  | false => rfl
  | true => exact stackStored_true v

/-- Data of one bit is the flag it writes. -/
theorem getLsbD_zero_of_lt_two {v : Word} (hv : v.toNat < 2) : v.getLsbD 0 = decide (v.toNat = 1) := by
  rw [BitVec.getLsbD, Nat.testBit_zero, Nat.mod_eq_of_lt hv]

theorem exec_writeReg_xf {s : State} {v : Word} (hs : s.Running) (hv : v.toNat < 2) :
    exec (.writeReg .xf v) s =
      .next { s with flagXF := if s.flagE then s.flagXF else decide (v.toNat = 1), resp := 0 } := by
  rw [exec_writeReg_of_lt hs Reg.noConfusion hv, ← getLsbD_zero_of_lt_two hv]
  rfl

/-- Settles O13: data for a 16-bit register always fits; each stored value is the write rule's, with its masks spelled
out. -/
theorem writeRegStoresByTheWriteRule : Obligations.WriteRegStoresByTheWriteRule := by
  intro s v hs
  have hstore {r : Reg} : r ≠ .cyc → v.toNat < 2 ^ r.bits →
      exec (.writeReg r v) s = .next ((storeReg s r v).respond 0) := exec_writeReg_of_lt hs
  have hbyte : v.extractLsb' 0 8 = v.setWidth 8 := (BitVec.setWidth_eq_extractLsb' (by decide)).symm
  refine ⟨hstore Reg.noConfusion v.isLt, hstore Reg.noConfusion v.isLt, hstore Reg.noConfusion v.isLt, ?_, ?_, ?_,
    fun hv => ⟨?_, ?_⟩, fun hv => ⟨?_, exec_writeReg_xf hs hv⟩⟩
  · rw [← indexStored_eq]
    exact hstore Reg.noConfusion v.isLt
  · rw [← indexStored_eq]
    exact hstore Reg.noConfusion v.isLt
  · rw [← stackStored_eq]
    exact hstore Reg.noConfusion v.isLt
  · rw [← hbyte]
    exact hstore Reg.noConfusion hv
  · rw [← hbyte]
    exact hstore Reg.noConfusion hv
  · rw [← getLsbD_zero_of_lt_two hv]
    exact hstore Reg.noConfusion hv

/-! ### Writing `E` (R96) -/

theorem writeE_true_of_emulation {s : State} (hE : s.flagE = true) : writeE s true = s := by
  unfold writeE
  rw [hE, Bool.not_true, Bool.and_false, if_neg Bool.false_ne_true, ← hE]

theorem writeE_true_of_native {s : State} (hE : s.flagE = false) : writeE s true = enterEmulation s := by
  unfold writeE
  rw [hE]
  rfl

theorem enterEmulation_eq (s : State) : enterEmulation s =
    { s with
      flagE := true
      flagXF := true
      regX := s.regX.map (· &&& 0x00FF)
      regY := s.regY.map (· &&& 0x00FF)
      regS := s.regS.map (fun v => 0x0100 ||| (v &&& 0x00FF)) } := by
  rw [← funext indexStored_true, ← funext stackStored_true]
  rfl

/-- Settles O14: of the two values of `E` in the two modes, only 1 in native mode reaches another register. -/
theorem writeEEntersEmulation : Obligations.WriteEEntersEmulation := by
  intro s hs
  have hzero : exec (.writeReg .e 0) s = .next ((writeE s false).respond 0) :=
    exec_writeReg_of_lt hs Reg.noConfusion (by decide)
  have hone : exec (.writeReg .e 1) s = .next ((writeE s true).respond 0) :=
    exec_writeReg_of_lt hs Reg.noConfusion (by decide)
  refine ⟨hzero, fun hE => ?_, fun hE => ?_⟩
  · rw [hone, writeE_true_of_emulation hE]
    rfl
  · rw [hone, writeE_true_of_native hE, enterEmulation_eq]
    rfl

/-! ### An index register wider than the index width (R97, R130, R239) -/

theorem highByte_ne_zero {v : Word} (hv : 0x100 ≤ v.toNat) : v.extractLsb' 8 8 ≠ 0#8 := by
  intro h
  have hzero : v.toNat / 2 ^ 8 % 2 ^ 8 = 0 := by
    rw [← Nat.shiftRight_eq_div_pow, ← BitVec.extractLsb'_toNat, h]
    rfl
  have := v.isLt
  omega

theorem indexValue_of_incoherent {s : State} {r : Reg} {v? : Option Word} {v : Word} (hXF : s.flagXF = true)
    (hr : v? = some v) (hv : 0x100 ≤ v.toNat) : indexValue s r v? = .error (indexWidthIncoherent r) := by
  simp [indexValue, hXF, hr, highByte_ne_zero hv]

/-- The tags whose mode rule reads `X` (R134). -/
def tagsReadingX : List ModeTag := [.absX, .absXInd, .absLX, .dpX, .dpXInd]

/-- The tags whose mode rule reads `Y` and no other register that may hold no value (R134); `SR_IND_Y` reads `S`
first. -/
def tagsReadingY : List ModeTag := [.absY, .dpY, .dpIndY, .dpIndLY]

theorem ruleOf_of_indexX_error {t : ModeTag} {s : State} {f : FaultReg} (ht : t ∈ tagsReadingX)
    (h : indexX s = .error f) (w : Width) (op : BitVec 24) : ruleOf t s w op = .error f := by
  cases t with
  | absX => simp [ruleOf, absIndexed, h]
  | absXInd => simp [ruleOf, modeAbsXInd, h]
  | absLX => simp [ruleOf, modeAbsLX, h]
  | dpX => simp [ruleOf, directIndexed, h]
  | dpXInd => simp [ruleOf, modeDpXInd, h]
  | _ => exact absurd ht (by decide)

theorem ruleOf_of_indexY_error {t : ModeTag} {s : State} {f : FaultReg} (ht : t ∈ tagsReadingY)
    (h : indexY s = .error f) (w : Width) (op : BitVec 24) : ruleOf t s w op = .error f := by
  cases t with
  | absY => simp [ruleOf, absIndexed, h]
  | dpY => simp [ruleOf, directIndexed, h]
  | dpIndY => simp [ruleOf, modeDpIndY, h]
  | dpIndLY => simp [ruleOf, modeDpIndLY, h]
  | _ => exact absurd ht (by decide)

theorem exec_resolve_of_error {t : ModeTag} {ws : WSel} {op : BitVec 24} {s : State} {f : FaultReg}
    (hs : s.Running) (h : ruleOf t s (widthOf s ws) op = .error f) :
    exec (resolveInstr t ws op) s = .next (s.raise f) := by
  rw [exec_resolveInstr]
  exact resolveWith_of_error hs h

theorem exec_of_indexX_error {s : State} {f : FaultReg} (hs : s.Running) (h : indexX s = .error f) (ws : WSel)
    (op : BitVec 24) : ∀ i ∈ tagsReadingX.map (resolveInstr · ws op), exec i s = .next (s.raise f) :=
  List.forall_mem_map.2 fun _ ht => exec_resolve_of_error hs (ruleOf_of_indexX_error ht h _ op)

theorem exec_of_indexY_error {s : State} {f : FaultReg} (hs : s.Running) (h : indexY s = .error f) (ws : WSel)
    (op : BitVec 24) : ∀ i ∈ tagsReadingY.map (resolveInstr · ws op), exec i s = .next (s.raise f) :=
  List.forall_mem_map.2 fun _ ht => exec_resolve_of_error hs (ruleOf_of_indexY_error ht h _ op)

/-- `SR_IND_Y` checks `S` before `Y` (R213). -/
theorem exec_resolveSrIndY_of_stack_undefined {s : State} (hs : s.Running) (hS : s.regS = none) (ws : WSel)
    (op : BitVec 24) : exec (.resolveSrIndY ws op) s = .next (s.raise (undefinedRegister .s)) :=
  exec_resolve_of_error (t := .srIndY) hs (by simp [ruleOf, modeSrIndY, stackAddr, definedValue, hS])

theorem exec_resolveSrIndY_of_indexY_error {s : State} {f : FaultReg} (hs : s.Running) (hS : s.regS ≠ none)
    (h : indexY s = .error f) (ws : WSel) (op : BitVec 24) : exec (.resolveSrIndY ws op) s = .next (s.raise f) := by
  obtain ⟨v, hv⟩ := Option.ne_none_iff_exists'.1 hS
  exact exec_resolve_of_error (t := .srIndY) hs (by simp [ruleOf, modeSrIndY, stackAddr, definedValue, hv, h])

/-- `s` after `WRITE_REG` has set `XF` in native mode: no other register changes (R97). -/
def narrowed (s : State) : State := { s with flagXF := true, resp := 0 }

theorem exec_writeReg_xf_one {s : State} (hs : s.Running) (hE : s.flagE = false) :
    exec (.writeReg .xf 1) s = .next (narrowed s) := by
  rw [exec_writeReg_xf hs (by decide), if_neg (by simp [hE])]
  rfl

/-- Settles O16: the write of `XF` touches no index register, so the coherence check of the index read fails in every
mode rule that gets to it; `READ_REG` makes no such check. -/
theorem narrowingXFLeavesTheIndexIncoherent : Obligations.NarrowingXFLeavesTheIndexIncoherent := by
  intro s v ws op hs hE hv
  have hrun : (narrowed s).Running := hs
  refine ⟨narrowed s, exec_writeReg_xf_one hs hE, rfl, fun hX => ?_, fun hY => ?_⟩
  · have hindex : indexX (narrowed s) = .error (indexWidthIncoherent .x) := indexValue_of_incoherent rfl hX hv
    exact ⟨exec_of_indexX_error hrun hindex ws op, exec_readReg_of_some hrun rfl hX⟩
  · have hindex : indexY (narrowed s) = .error (indexWidthIncoherent .y) := indexValue_of_incoherent rfl hY hv
    exact ⟨exec_of_indexY_error hrun hindex ws op,
      fun hS => exec_resolveSrIndY_of_indexY_error hrun hS hindex ws op,
      fun hS => exec_resolveSrIndY_of_stack_undefined hrun hS ws op,
      exec_readReg_of_some hrun rfl hY⟩

end Sys2Proof.Machine

/-! PROOFS: the bus commands (R110 to R114). A read answers the bytes at its address and the successor modulo 2^24; a
write stores its bytes and leaves every other one, or records that the data does not fit in a byte. -/

namespace Sys2Proof.Machine

open Claims Laws

/-! ### Reads (R110, R112) -/

/-- The successor address of a bus access (R114) is the next address modulo 2^24. -/
theorem bankCarry_one (a : Addr) : bankCarry a 1 = a + 1 := bankCarry_eq_add a 1

theorem exec_readByte {s : State} (hs : s.Running) (a : Addr) :
    exec (.readByte a) s = .next (s.respond ((memRead s a).setWidth 64)) := whenRunning_of_running hs

theorem exec_readOperand_byte {s : State} {ws : WSel} (hs : s.Running) (hw : widthOf s ws = .byte) (a : Addr) :
    exec (.readOperand a ws) s = .next (s.respond ((memRead s a).setWidth 64)) := by
  have hdata : readData s (widthOf s ws) a (bankCarry a 1) = (memRead s a).setWidth 16 := by rw [hw]; rfl
  rw [exec_readOperand hs hdata, BitVec.setWidth_setWidth (by decide)]

theorem exec_readOperand_word {s : State} {ws : WSel} (hs : s.Running) (hw : widthOf s ws = .word) (a : Addr) :
    exec (.readOperand a ws) s = .next (s.respond ((memRead s (a + 1) ++ memRead s a).setWidth 64)) := by
  have hdata : readData s (widthOf s ws) a (bankCarry a 1) = memRead s (a + 1) ++ memRead s a := by
    rw [hw, bankCarry_one]; rfl
  exact exec_readOperand hs hdata

/-- Settles O17: a read is the response of the bytes it names; the encodings are those of the table rows. -/
theorem busReadsReturnMemory : Obligations.BusReadsReturnMemory := fun _ a ws hs =>
  ⟨exec_readByte hs a, fun hw => exec_readOperand_byte hs hw a, fun hw => exec_readOperand_word hs hw a,
    TableRow.readByte a, TableRow.readOperand a ws⟩

/-! ### The state after a completed write -/

/-- A completed write changes memory and clears `RESP`; memory stays canonical and only the stored bytes change. -/
theorem writeData_respond_spec {s : State} {w : Width} {lo hi : Addr} {v : Word} (hm : s.mem.wf = true)
    {t : State} (ht : t = (writeData s w lo hi v).respond 0) :
    t = { s with mem := t.mem, resp := 0 } ∧ t.mem.wf = true ∧
    ∀ b, memRead t b =
      if w = .word ∧ b = hi then v.extractLsb' 8 8 else if b = lo then v.setWidth 8 else memRead s b := by
  obtain ⟨hframe, hwf, hread⟩ := writeData_spec (w := w) (lo := lo) (hi := hi) (v := v) hm
  subst ht
  refine ⟨congrArg (State.respond · 0) hframe, hwf, fun b => ?_⟩
  rw [BitVec.setWidth_eq_extractLsb' (by decide)]
  exact hread b

/-- A command that ends in a completed one-byte write has changed that byte and `RESP`, and nothing else (R51). -/
theorem exists_next_of_stored_byte {s : State} {r : Result} {a hi : Addr} {v : Word} (hm : s.mem.wf = true)
    (hr : r = .next ((writeData s .byte a hi v).respond 0)) :
    ∃ t, r = .next t ∧ t = { s with mem := t.mem, resp := 0 } ∧ t.mem.wf = true ∧
      ∀ b, memRead t b = if b = a then v.setWidth 8 else memRead s b := by
  obtain ⟨hframe, hwf, hread⟩ := writeData_respond_spec (w := .byte) (lo := a) (hi := hi) (v := v) hm rfl
  exact ⟨_, hr, hframe, hwf, by simpa using hread⟩

/-! ### Writes (R111, R113) -/

theorem exec_writeByte_of_lt {s : State} {v : Word} (hs : s.Running) (hv : v.toNat < 0x100) (a : Addr) :
    exec (.writeByte a v) s = .next ((writeData s .byte a a v).respond 0) := by
  change whenRunning s _ = _
  rw [whenRunning_of_running hs, if_pos (fitsIn_iff.2 hv)]
  rfl

/-- `WRITE_OPERAND` of a byte stores at the address alone; the successor is not used (R113). -/
theorem exec_writeOperand_byte_of_lt {s : State} {ws : WSel} {v : Word} (hs : s.Running)
    (hw : widthOf s ws = .byte) (hv : v.toNat < 0x100) (a : Addr) :
    exec (.writeOperand a ws v) s = .next ((writeData s .byte a (bankCarry a 1) v).respond 0) := by
  have hfits : fitsIn v 8 = true := fitsIn_iff.2 hv
  change whenRunning s _ = _
  rw [whenRunning_of_running hs, hw, if_neg (by simp [hfits])]

theorem exec_writeByte_of_lowestFrom {s : State} {v : Word} {k : Nat} (hs : s.Running) (hk : LowestFrom v 8 k)
    (a : Addr) :
    exec (.writeByte a v) s = .next (s.raise ⟨.reservedBitsSet, BitVec.ofNat 8 (40 + k)⟩) := by
  obtain ⟨hn, -, hset, hlow⟩ := hk
  change whenRunning s _ = _
  rw [whenRunning_of_running hs, if_neg (by simp [fitsIn_eq_false hn hset]), dataRangeFault_eq hn hset hlow]

theorem exec_writeOperand_byte_of_lowestFrom {s : State} {ws : WSel} {v : Word} {k : Nat} (hs : s.Running)
    (hw : widthOf s ws = .byte) (hk : LowestFrom v 8 k) (a : Addr) :
    exec (.writeOperand a ws v) s = .next (s.raise ⟨.reservedBitsSet, BitVec.ofNat 8 (40 + k)⟩) := by
  obtain ⟨hn, -, hset, hlow⟩ := hk
  change whenRunning s _ = _
  rw [whenRunning_of_running hs, if_pos ⟨hw, fitsIn_eq_false hn hset⟩, dataRangeFault_eq hn hset hlow]

/-- Settles O18: data below 0x100 is stored as one byte, and any other is refused by the range check. -/
theorem writeByteChangesOneByte : Obligations.WriteByteChangesOneByte := fun _ a _ hs hm =>
  ⟨fun hv => exists_next_of_stored_byte hm (exec_writeByte_of_lt hs hv a),
    fun _ hk => exec_writeByte_of_lowestFrom hs hk a⟩

/-- Settles O19: the resolved width decides between one byte under the range check and two bytes without it. -/
theorem writeOperandChangesItsBytes : Obligations.WriteOperandChangesItsBytes := by
  refine fun s a ws v hs hm => ⟨fun hw hv => ?_, fun hw => ?_, fun hw k hk => ?_⟩
  · exact exists_next_of_stored_byte hm (exec_writeOperand_byte_of_lt hs hw hv a)
  · obtain ⟨hframe, hwf, hread⟩ := writeData_respond_spec (w := .word) (lo := a) (hi := bankCarry a 1) (v := v) hm rfl
    refine ⟨_, exec_writeOperand_word hs hw a v, hframe, hwf, ?_⟩
    simpa [bankCarry_one] using hread
  · exact exec_writeOperand_byte_of_lowestFrom hs hw hk a

end Sys2Proof.Machine

/-! PROOFS: the three address additions (R125 to R127) in closed form, and what `RESOLVE` depends on (R138): a mode rule
returns the same in a state stripped of everything that is not an input of it. -/

namespace Sys2Proof.Machine

open Claims

/-! ### The address additions (R125 to R127) -/

theorem bankOf_bankCarry_toNat (a : Addr) (n : Nat) :
    (bankOf (bankCarry a n)).toNat = ((bankOf a).toNat + ((offOf a).toNat + n) / 0x10000) % 256 := by
  unfold bankCarry
  rw [bankOf_a24, BitVec.toNat_ofNat]

theorem offOf_bankCarry_toNat (a : Addr) (n : Nat) :
    (offOf (bankCarry a n)).toNat = ((offOf a).toNat + n) % 0x10000 := by
  unfold bankCarry
  rw [offOf_a24, BitVec.toNat_ofNat]

/-- Settles O8: what overflows the offset is the carry into the bank, so bank and offset together are one 24-bit sum. -/
theorem bankCarryIsAdditionModulo24 : Obligations.BankCarryIsAdditionModulo24 := fun a n =>
  ⟨bankCarry_eq_add a n, bankOf_bankCarry_toNat a n, offOf_bankCarry_toNat a n⟩

theorem bankFixed_eq_a24 (a : Addr) (n : Nat) : bankFixed a n = a24 (bankOf a) (offOf a + BitVec.ofNat 16 n) := by
  rw [← offOf_bankFixed, ← bankOf_bankFixed a n, a24_bankOf_offOf]

theorem bankFixed_toNat_div (a : Addr) (n : Nat) : (bankFixed a n).toNat / 0x10000 = a.toNat / 0x10000 := by
  rw [← bankOf_toNat, bankOf_bankFixed, bankOf_toNat]

theorem bankFixed_toNat_mod (a : Addr) (n : Nat) : (bankFixed a n).toNat % 0x10000 = (a.toNat + n) % 0x10000 := by
  rw [← offOf_toNat, offOf_bankFixed, BitVec.toNat_add, BitVec.toNat_ofNat, offOf_toNat, ← Nat.add_mod]

/-- Settles O9: the bank of the sum is the bank of the address, and its offset is a 16-bit sum. -/
theorem bankFixedNeverChangesTheBank : Obligations.BankFixedNeverChangesTheBank := by
  refine fun a n => ⟨?_, bankFixed_toNat_div a n, bankFixed_toNat_mod a n⟩
  rw [bankFixed_eq_a24, offOf, ← BitVec.setWidth_eq_extractLsb' (by decide)]
  rfl

/-- Bank and page of an address are its upper 16 bits, which page-fixed addition keeps (R127). -/
theorem pageFixed_eq_append (a : Addr) (n : Nat) :
    pageFixed a n = a.extractLsb' 8 16 ++ (a.setWidth 8 + BitVec.ofNat 8 n) := by
  have hpage : (offOf a).extractLsb' 8 8 = a.extractLsb' 8 8 := BitVec.extractLsb'_extractLsb'_of_le (by decide)
  have hlow : (offOf a).extractLsb' 0 8 = a.setWidth 8 := by
    rw [offOf, BitVec.extractLsb'_extractLsb'_of_le (by decide), BitVec.setWidth_eq_extractLsb' (by decide)]
  have hupper : bankOf a ++ a.extractLsb' 8 8 = a.extractLsb' 8 16 :=
    BitVec.extractLsb'_append_extractLsb'_eq_extractLsb' rfl
  simp only [pageFixed, a24, hpage, hlow, BitVec.ofNat_add, BitVec.ofNat_toNat, BitVec.setWidth_eq, ← hupper]
  rw [BitVec.append_assoc, BitVec.cast_eq]

theorem pageFixed_toNat_div (a : Addr) (n : Nat) : (pageFixed a n).toNat / 0x100 = a.toNat / 0x100 := by
  have hpage (b : Addr) : (b.extractLsb' 8 16).toNat = b.toNat / 0x100 := by
    have := b.isLt
    rw [BitVec.extractLsb'_toNat, Nat.shiftRight_eq_div_pow]
    omega
  rw [← hpage, ← hpage, pageFixed_eq_append, BitVec.extractLsb'_append_eq_left]

theorem pageFixed_toNat_mod (a : Addr) (n : Nat) : (pageFixed a n).toNat % 0x100 = (a.toNat + n) % 0x100 := by
  have hlow (b : Addr) : (b.setWidth 8).toNat = b.toNat % 0x100 := BitVec.toNat_setWidth 8 b
  rw [← hlow, pageFixed_eq_append, BitVec.setWidth_append_eq_right,
    BitVec.toNat_add, BitVec.toNat_ofNat, hlow, ← Nat.add_mod]

/-- Settles O10: the upper 16 bits of the sum are those of the address, and its low byte is an 8-bit sum. -/
theorem pageFixedNeverChangesThePage : Obligations.PageFixedNeverChangesThePage := fun a n =>
  ⟨pageFixed_eq_append a n, pageFixed_toNat_div a n, pageFixed_toNat_mod a n⟩

/-! ### The inputs of `RESOLVE` (R138) -/

/-- `s` with the fields that are no input of `RESOLVE` blanked: `A` (R17), `PC` (R27), the counter, the latch, the fault
register, `RESP` and the pending commands. -/
def resolveInputs (s : State) : State :=
  { s with
    regA := none, pc := none, cyc := 0, latch := Latch.invalid, fault := ⟨.none, 0⟩, resp := 0, commands := [] }

theorem resolveInputs_eq_iff {s u : State} : resolveInputs s = resolveInputs u ↔ SameInputs s u := by
  simp [resolveInputs, SameInputs]

/-- A width select reads the flags only (R69). -/
theorem widthOf_resolveInputs (s : State) (ws : WSel) : widthOf (resolveInputs s) ws = widthOf s ws := by
  cases ws <;> rfl

/-- No mode rule reads a blanked field: both sides unfold to the same reads of the others. -/
theorem ruleOf_resolveInputs (t : ModeTag) (s : State) : ruleOf t (resolveInputs s) = ruleOf t s := by
  cases t <;> rfl

/-- A fault that a mode rule raises is one the fault register shows (R212). -/
theorem code_ne_none_of_ruleOf_error {t : ModeTag} {s : State} {w : Width} {op : BitVec 24} {f : FaultReg}
    (h : ruleOf t s w op = .error f) : f.code ≠ .none := by
  rcases ruleOf_error h with hcode | hcode <;> rw [hcode] <;> exact FaultCode.noConfusion

theorem exec_resolve_of_ok {t : ModeTag} {ws : WSel} {op : BitVec 24} {s : State} {r : ModeResult}
    (hs : s.Running) (h : ruleOf t s (widthOf s ws) op = .ok r) :
    exec (resolveInstr t ws op) s = .next (completeResolve s t (widthOf s ws) r) := by
  rw [exec_resolveInstr]
  exact resolveWith_of_ok hs h

theorem exists_resolveInstr {i : Instr} (h : isResolve i = true) : ∃ t ws op, i = resolveInstr t ws op := by
  induction i using Instr.casesByCommand with
  | resolve t ws op => exact ⟨t, ws, op, rfl⟩
  | _ => cases h

/-- Settles O33: mode rule, width and parameters are the same in both states, so the two commands raise the same fault
or complete with the same latch. -/
theorem resolveDependsOnItsInputsOnly : Obligations.ResolveDependsOnItsInputsOnly := by
  intro s u _ _ i hi hs hu hsame hexecs hexecu
  obtain ⟨t, ws, op, rfl⟩ := exists_resolveInstr hi
  have hinputs := resolveInputs_eq_iff.2 hsame
  have hwidth : widthOf u ws = widthOf s ws := by
    rw [← widthOf_resolveInputs u, ← hinputs, widthOf_resolveInputs]
  have hrule : ruleOf t u = ruleOf t s := by
    rw [← ruleOf_resolveInputs t u, ← hinputs, ruleOf_resolveInputs]
  have hparams : u.params = s.params := (congrArg State.params hinputs).symm
  cases hr : ruleOf t s (widthOf s ws) op with
  | error f =>
    have hf : f.code ≠ .none := code_ne_none_of_ruleOf_error hr
    rw [exec_resolve_of_error hs hr] at hexecs
    rw [exec_resolve_of_error hu (by rw [hrule, hwidth, hr])] at hexecu
    cases hexecs
    cases hexecu
    exact ⟨iff_of_false hf hf, fun hrun => absurd hrun hf, fun _ => rfl⟩
  | ok r =>
    have hlatch : latchOf s.params t (widthOf s ws) r = latchOf u.params t (widthOf u ws) r := by
      rw [hparams, hwidth]
    rw [exec_resolve_of_ok hs hr] at hexecs
    rw [exec_resolve_of_ok hu (by rw [hrule, hwidth, hr])] at hexecu
    cases hexecs
    cases hexecu
    exact ⟨iff_of_true hs hu, fun _ => hlatch, fun hfaulted => absurd hs hfaulted⟩

end Sys2Proof.Machine

/-! PROOFS: the absolute modes (R150 to R158) and the banks that no operand moves (R158, R174). Each mode rule is put in
closed form; the state after a completed `RESOLVE` and the index faults are the same for every mode (R130, R137). -/

namespace Sys2Proof.Machine

open Claims Laws

/-! ### A completed `RESOLVE` in closed form (R137, R187, R188) -/

theorem baseCycles_lt (p : Params) (t : ModeTag) (w : Width) : baseCycles p t w < 0xFFFF := by
  cases w <;> exact Fin.isLt _

theorem cost_eq_ofNat (p : Params) (t : ModeTag) (w : Width) (cross : Bool) :
    cost p t w cross = BitVec.ofNat 16 (baseCycles p t w + cross.toNat) := by
  cases cross <;> rfl

/-- The bound of R187 on the table leaves room for the extra cycle of a crossing. -/
theorem cost_toNat (p : Params) (t : ModeTag) (w : Width) (cross : Bool) :
    (cost p t w cross).toNat = baseCycles p t w + cross.toNat := by
  have := baseCycles_lt p t w
  have := cross.toNat_le
  rw [cost_eq_ofNat, BitVec.toNat_ofNat]
  omega

theorem add_cost (c : BitVec 64) (p : Params) (t : ModeTag) (w : Width) (cross : Bool) :
    c + (cost p t w cross).setWidth 64 = BitVec.ofNat 64 (c.toNat + baseCycles p t w + cross.toNat) := by
  rw [← BitVec.ofNat_toNat, cost_toNat, Nat.add_assoc, BitVec.ofNat_add c.toNat, BitVec.ofNat_toNat,
    BitVec.setWidth_eq]

theorem completeResolve_eq_resolved (s : State) (t : ModeTag) (w : Width) (r : ModeResult) :
    completeResolve s t w r = resolved s t w r := by
  calc completeResolve s t w r
    _ = { s with
          latch := latchOf s.params t w r
          cyc := s.cyc + (cost s.params t w r.cross).setWidth 64
          resp := 0 } := rfl
    _ = resolved s t w r := by
      rw [add_cost, latchOf, cost_eq_ofNat]
      cases w <;> rfl

theorem exec_resolve_eq_resolved {t : ModeTag} {ws : WSel} {op : BitVec 24} {s : State} {r : ModeResult}
    (hs : s.Running) (h : ruleOf t s (widthOf s ws) op = .ok r) :
    exec (resolveInstr t ws op) s = .next (resolved s t (widthOf s ws) r) := by
  rw [exec_resolve_of_ok hs h, completeResolve_eq_resolved]

/-! ### A mode rule that reads an index register (R130) -/

theorem highByte_eq_zero {v : Word} (hv : v.toNat < 0x100) : v.extractLsb' 8 8 = 0#8 := by
  apply BitVec.eq_of_toNat_eq
  rw [BitVec.extractLsb'_toNat, Nat.shiftRight_eq_div_pow, Nat.div_eq_of_lt hv]
  rfl

/-- A mode rule that raises what its index read raises, and returns `k i` at the index `i`, gives the three outcomes of
R130. -/
theorem indexedAt_of_ruleOf {t : ModeTag} {ws : WSel} {op : BitVec 24} {s : State} {r : Reg} {v? : Option Word}
    {k : Word → ModeResult} (hs : s.Running)
    (hok : ∀ i, indexValue s r v? = .ok i → ruleOf t s (widthOf s ws) op = .ok (k i))
    (herror : ∀ f, indexValue s r v? = .error f → ruleOf t s (widthOf s ws) op = .error f) :
    IndexedAt (resolveInstr t ws op) s (r.code.setWidth 8) v? (fun i => resolved s t (widthOf s ws) (k i)) := by
  refine ⟨fun v hv hfits => ?_, fun hnone => ?_, fun v hv hXF hwide => ?_⟩
  · have hindex : indexValue s r v? = .ok v := by
      rw [hv]
      exact indexValue_of_some fun hXF => highByte_eq_zero (hfits hXF)
    exact exec_resolve_eq_resolved hs (hok v hindex)
  · have hindex : indexValue s r v? = .error (undefinedRegister r) := by rw [hnone]; rfl
    exact exec_resolve_of_error hs (herror _ hindex)
  · exact exec_resolve_of_error hs (herror _ (indexValue_of_incoherent hXF hv hwide))

theorem indexedAt_of_indexX {t : ModeTag} {ws : WSel} {op : BitVec 24} {s : State} {k : Word → ModeResult}
    (hs : s.Running) (ht : t ∈ tagsReadingX)
    (hok : ∀ i, indexX s = .ok i → ruleOf t s (widthOf s ws) op = .ok (k i)) :
    IndexedAt (resolveInstr t ws op) s 0x1 s.regX (fun i => resolved s t (widthOf s ws) (k i)) :=
  indexedAt_of_ruleOf (r := .x) hs hok fun _ h => ruleOf_of_indexX_error ht h _ op

theorem indexedAt_of_indexY {t : ModeTag} {ws : WSel} {op : BitVec 24} {s : State} {k : Word → ModeResult}
    (hs : s.Running) (ht : t ∈ tagsReadingY)
    (hok : ∀ i, indexY s = .ok i → ruleOf t s (widthOf s ws) op = .ok (k i)) :
    IndexedAt (resolveInstr t ws op) s 0x2 s.regY (fun i => resolved s t (widthOf s ws) (k i)) :=
  indexedAt_of_ruleOf (r := .y) hs hok fun _ h => ruleOf_of_indexY_error ht h _ op

/-! ### Operands and addresses in closed form (R70, R125, R126) -/

theorem op16_eq_operand16 (op : BitVec 24) : op16 op = operand16 op := by
  rw [op16, BitVec.extractLsb'_append_extractLsb'_eq_extractLsb' (by rfl), operand16,
    BitVec.setWidth_eq_extractLsb' (by decide)]

theorem op24_eq (op : BitVec 24) : op24 op = op := by
  rw [op24, BitVec.append_assoc, BitVec.extractLsb'_append_extractLsb'_eq_extractLsb' (by rfl), BitVec.cast_eq,
    BitVec.extractLsb'_append_extractLsb'_eq_extractLsb' (by rfl), BitVec.extractLsb'_eq_self]

theorem bankCarry_word (a : Addr) (i : Word) : bankCarry a i.toNat = a + i.setWidth 24 := by
  rw [bankCarry_eq_add, BitVec.ofNat_toNat]

theorem bankCarry_zero (a : Addr) : bankCarry a 0 = a := by
  exact (bankCarry_eq_add a 0).trans (BitVec.add_zero a)

theorem bankFixed_append (b : Byte) (o : Word) (n : Nat) :
    bankFixed (b ++ o) n = b ++ (o + BitVec.ofNat 16 n) := by
  change bankFixed (a24 b o) n = _
  rw [bankFixed_eq_a24, bankOf_a24, offOf_a24]
  rfl

/-! ### The mode rules in closed form (R150 to R157) -/

section Rules

variable {index : State → Except FaultReg Word} (s : State) {i : Word} (w : Width) (op : BitVec 24)

theorem modeAbs_eq : modeAbs s w op = .ok (dataAt (s.dbr ++ operand16 op) 2 false) := by
  simp only [modeAbs, bankCarry_zero, bankCarry_one, op16_eq_operand16]
  rfl

theorem absIndexed_of_ok (h : index s = .ok i) : absIndexed index s w op =
    .ok (dataAt (s.dbr ++ operand16 op + i.setWidth 24) 2 (leavesBank (operand16 op) i)) := by
  simp only [absIndexed, h, bankCarry_word, bankCarry_one, op16_eq_operand16]
  rfl

theorem modeAbsL_eq : modeAbsL s w op = .ok (dataAt op 3 false) := by
  simp only [modeAbsL, op24_eq, bankCarry_one]

theorem modeAbsLX_of_ok (h : indexX s = .ok i) : modeAbsLX s w op =
    .ok (dataAt (op + i.setWidth 24) 3 (leavesBank (operand16 op) i)) := by
  simp only [modeAbsLX, h, op24_eq, bankCarry_word, bankCarry_one, op16_eq_operand16]
  rfl

theorem modeAbsJmp_eq : modeAbsJmp s w op = .ok (jumpTo s (operand16 op)) := by
  simp only [modeAbsJmp, op16_eq_operand16, a24, bankFixed_append]
  rfl

/-- Neither the pointer pair nor the target's successor leaves its bank. -/
theorem jumpThrough_eq (s : State) (b : Byte) (o : Word) : jumpThrough s (b ++ o) = jumpThroughAt s b o := by
  simp only [jumpThrough, fetch2Fixed, a24, bankFixed_append]
  rfl

theorem modeAbsInd_eq : modeAbsInd s w op = .ok (jumpThroughAt s 0x00 (operand16 op)) := by
  simp only [modeAbsInd, a24, jumpThrough_eq, op16_eq_operand16]

theorem modeAbsXInd_of_ok (h : indexX s = .ok i) :
    modeAbsXInd s w op = .ok (jumpThroughAt s s.pbr (operand16 op + i)) := by
  simp only [modeAbsXInd, h, a24, bankFixed_append, jumpThrough_eq, op16_eq_operand16, BitVec.ofNat_toNat,
    BitVec.setWidth_eq]

end Rules

/-- Settles O24: each rule's sum is one 24-bit sum, so index and second byte carry into the bank. -/
theorem absoluteDataModesResolve : Obligations.AbsoluteDataModesResolve := by
  intro s ws op hs w base
  exact ⟨exec_resolve_eq_resolved (t := .abs) hs (modeAbs_eq s w op),
    indexedAt_of_indexX (t := .absX) hs (by decide) fun _ => absIndexed_of_ok s w op,
    indexedAt_of_indexY (t := .absY) hs (by decide) fun _ => absIndexed_of_ok s w op,
    exec_resolve_eq_resolved (t := .absL) hs (modeAbsL_eq s w op),
    indexedAt_of_indexX (t := .absLX) hs (by decide) fun _ => modeAbsLX_of_ok s w op,
    TableRow.resolveAbs ws op, TableRow.resolveAbsX ws op, TableRow.resolveAbsY ws op, TableRow.resolveAbsL ws op,
    TableRow.resolveAbsLX ws op⟩

/-- Settles O25: each rule's sum is a 16-bit sum beside a fixed bank. -/
theorem jumpModesResolve : Obligations.JumpModesResolve := by
  intro s ws op hs w
  exact ⟨exec_resolve_eq_resolved (t := .absJmp) hs (modeAbsJmp_eq s w op),
    exec_resolve_eq_resolved (t := .absInd) hs (modeAbsInd_eq s w op),
    indexedAt_of_indexX (t := .absXInd) hs (by decide) fun _ => modeAbsXInd_of_ok s w op⟩

/-! ### Banks that no operand moves (R158, R174) -/

/-- A `RESOLVE` that leaves no fault has completed, with the result of its mode rule in the latch. -/
theorem latch_of_completed {t : ModeTag} {ws : WSel} {op : BitVec 24} {s u : State} (hs : s.Running)
    (hu : u.Running) (h : exec (resolveInstr t ws op) s = .next u) :
    ∃ r, ruleOf t s (widthOf s ws) op = .ok r ∧ u.latch = latchOf s.params t (widthOf s ws) r := by
  cases hr : ruleOf t s (widthOf s ws) op with
  | error f =>
    rw [exec_resolve_of_error hs hr] at h
    cases h
    exact absurd hu (code_ne_none_of_ruleOf_error hr)
  | ok r =>
    rw [exec_resolve_of_ok hs hr] at h
    cases h
    exact ⟨r, rfl, rfl⟩

section Banks

variable {s : State} {w : Width} {op : BitVec 24} {r : ModeResult}

theorem ruleOf_absJmp_bank (h : ruleOf .absJmp s w op = .ok r) : bankOf r.ea = s.pbr := by
  cases h
  exact bankOf_a24 _ _

theorem bankOf_jumpThrough_ea (s : State) (pa : Addr) : bankOf (jumpThrough s pa).ea = s.pbr := bankOf_a24 _ _

theorem ruleOf_absInd_banks (h : ruleOf .absInd s w op = .ok r) : bankOf r.ea = s.pbr ∧ bankOf r.pa = 0x00 := by
  cases h
  exact ⟨bankOf_jumpThrough_ea s _, bankOf_a24 _ _⟩

theorem ruleOf_absXInd_banks (h : ruleOf .absXInd s w op = .ok r) : bankOf r.ea = s.pbr ∧ bankOf r.pa = s.pbr := by
  simp only [ruleOf, modeAbsXInd] at h
  split at h <;> cases h
  exact ⟨bankOf_jumpThrough_ea s _, (bankOf_bankFixed _ _).trans (bankOf_a24 _ _)⟩

theorem stackAddr_bank {a : Addr} (h : stackAddr s op = .ok a) : bankOf a = 0x00 := by
  unfold stackAddr at h
  split at h <;> cases h
  exact (bankOf_bankFixed _ _).trans (bankOf_a24 _ _)

theorem ruleOf_sr_banks (h : ruleOf .sr s w op = .ok r) : bankOf r.ea = 0x00 ∧ bankOf r.ea2 = 0x00 := by
  simp only [ruleOf, modeSr] at h
  split at h <;> cases h
  next hstack => exact ⟨stackAddr_bank hstack, (bankOf_bankFixed _ _).trans (stackAddr_bank hstack)⟩

theorem ruleOf_srIndY_bank (h : ruleOf .srIndY s w op = .ok r) : bankOf r.pa = 0x00 := by
  simp only [ruleOf, modeSrIndY] at h
  split at h
  · cases h
  · next hstack =>
    split at h <;> cases h
    exact stackAddr_bank hstack

end Banks

/-- Settles O31: each of these addresses is built from its bank and an offset, or reached from such an address by
bank-fixed addition. -/
theorem fixedBanksIgnoreOverflow : Obligations.FixedBanksIgnoreOverflow := by
  refine fun s t ws op hs ht => ⟨fun h => ?_, fun h => ?_, fun h => ?_, fun h => ?_, fun h => ?_⟩
  · obtain ⟨r, hr, hlatch⟩ := latch_of_completed (t := .absJmp) hs ht h
    exact hlatch ▸ ruleOf_absJmp_bank hr
  · obtain ⟨r, hr, hlatch⟩ := latch_of_completed (t := .absInd) hs ht h
    exact hlatch ▸ ruleOf_absInd_banks hr
  · obtain ⟨r, hr, hlatch⟩ := latch_of_completed (t := .absXInd) hs ht h
    exact hlatch ▸ ruleOf_absXInd_banks hr
  · obtain ⟨r, hr, hlatch⟩ := latch_of_completed (t := .sr) hs ht h
    exact hlatch ▸ ruleOf_sr_banks hr
  · obtain ⟨r, hr, hlatch⟩ := latch_of_completed (t := .srIndY) hs ht h
    exact hlatch ▸ ruleOf_srIndY_bank hr

end Sys2Proof.Machine

/-! PROOFS: the direct-page modes (R160 to R168). The helpers of R131 to R133 in closed form put each mode rule in
closed form; under page wrap the high byte of a pointer is read in the page of the low byte (R159, R168). -/

namespace Sys2Proof.Machine

open Claims Laws

/-! ### The direct bank and the page-wrap condition (R131, R132) -/

theorem directBank_eq_db (s : State) : directBank s = db s := by
  unfold directBank db
  cases s.params.dpBank <;> rfl

theorem lowByte_eq_zero_iff (v : Word) : v.extractLsb' 0 8 = 0#8 ↔ v.toNat % 0x100 = 0 := by
  rw [← BitVec.toNat_inj, BitVec.extractLsb'_toNat, Nat.shiftRight_zero]
  rfl

theorem pageWraps_eq_wraps (s : State) : pageWraps s = wraps s := by
  unfold pageWraps wraps
  cases s.params.emuWrap with
  | always => simp
  | dlZero =>
    have hlow : (s.regD.extractLsb' 0 8 == 0#8) = decide (s.regD.toNat % 0x100 = 0) := by
      rw [Bool.eq_iff_iff, beq_iff_eq, decide_eq_true_iff, lowByte_eq_zero_iff]
    simp [hlow]

/-! ### Additions inside a page (R127, R133) -/

/-- The page of `o` with the low byte of `p`, as a sum of masked words. -/
theorem highByte_append_lowByte_eq_add (o p : Word) :
    o.extractLsb' 8 8 ++ p.extractLsb' 0 8 = (o &&& 0xFF00) + (p &&& 0x00FF) := by
  have hdisjoint : (o &&& 0xFF00) &&& (p &&& 0x00FF) = 0#16 := by
    ext k hk
    simp only [BitVec.getElem_and, BitVec.getElem_zero]
    interval_cases k <;> simp
  rw [BitVec.add_eq_or_of_and_eq_zero _ _ hdisjoint]
  ext k hk
  simp only [BitVec.getElem_append, BitVec.getElem_or, BitVec.getElem_and]
  interval_cases k <;> simp

theorem pageFixed_append (b : Byte) (o : Word) (n : Nat) :
    pageFixed (b ++ o) n = b ++ ((o &&& 0xFF00) + ((o + BitVec.ofNat 16 n) &&& 0x00FF)) := by
  have hlow : BitVec.ofNat 8 ((o.extractLsb' 0 8).toNat + n) = (o + BitVec.ofNat 16 n).extractLsb' 0 8 := by
    apply BitVec.eq_of_toNat_eq
    simp only [BitVec.toNat_ofNat, BitVec.extractLsb'_toNat, BitVec.toNat_add, Nat.shiftRight_zero]
    omega
  change pageFixed (a24 b o) n = _
  rw [pageFixed, bankOf_a24, offOf_a24, hlow, highByte_append_lowByte_eq_add]
  rfl

theorem dpAddr_eq (s : State) (n : Nat) : dpAddr s n = db s ++ directOffset s (BitVec.ofNat 16 n) := by
  unfold dpAddr directOffset
  rw [pageWraps_eq_wraps, directBase, directBank_eq_db, a24, pageFixed_append, bankFixed_append]
  split <;> rfl

theorem dpNext_append (s : State) (b : Byte) (o : Word) : dpNext s (b ++ o) = b ++ nextOffset s o := by
  unfold dpNext nextOffset
  rw [pageWraps_eq_wraps, pageFixed_append, bankFixed_append]
  split <;> rfl

theorem dpLong_eq (s : State) (n : Nat) : dpLong s n = db s ++ (s.regD + BitVec.ofNat 16 n) := by
  rw [dpLong, directBase, directBank_eq_db, a24, bankFixed_append]

theorem highByte_toNat (v : Word) : (v.extractLsb' 8 8).toNat = v.toNat / 0x100 := by
  have := v.isLt
  rw [BitVec.extractLsb'_toNat, Nat.shiftRight_eq_div_pow]
  omega

theorem dpCross_append (s : State) (b : Byte) (o : Word) : dpCross s (b ++ o) = leavesPage s o := by
  change dpCross s (a24 b o) = _
  rw [dpCross, offOf_a24, leavesPage, ← highByte_toNat, ← highByte_toNat, Bool.eq_iff_iff, bne_iff_ne,
    decide_eq_true_iff, Ne, Ne, BitVec.toNat_inj]

/-! ### The offset of a direct operand (R70) -/

theorem ofNat_op8 (op : BitVec 24) : BitVec.ofNat 16 (op8 op).toNat = operand8 op := by
  rw [op8, ← BitVec.setWidth_eq_extractLsb' (by decide), BitVec.ofNat_toNat]

theorem ofNat_op8_add (op : BitVec 24) (i : Word) : BitVec.ofNat 16 ((op8 op).toNat + i.toNat) = operand8 op + i := by
  rw [BitVec.ofNat_add, ofNat_op8, BitVec.ofNat_toNat, BitVec.setWidth_eq]

/-- A rule without an index adds the index 0. -/
theorem bankCarry_zero_index (a : Addr) : bankCarry a 0 = a + (0 : Word).setWidth 24 := bankCarry_word a 0

theorem add_zero_index (a : Addr) : a + (0 : Word).setWidth 24 = a := BitVec.add_zero a

/-! ### Results and pointers in closed form (R136, R160, R163) -/

theorem directData_eq (s : State) (o : Word) : directData s (db s ++ o) = directDataAt s o := by
  rw [directData, dpNext_append, dpCross_append, directDataAt]

theorem fetch2Direct_append (s : State) (b : Byte) (o : Word) :
    fetch2Direct s (b ++ o) = pointer2 s b o (nextOffset s o) := by
  rw [fetch2Direct, dpNext_append]
  rfl

theorem directPointed_eq (s : State) (o : Word) :
    directPointed s (db s ++ o) = throughPointer2 s (db s) o (nextOffset s o) 0 (leavesPage s o) := by
  simp only [directPointed, fetch2Direct_append, dpCross_append, bankCarry_zero_index, bankCarry_one]
  rfl

theorem fetch3_append (s : State) (b : Byte) (o : Word) : fetch3 s (b ++ o) = pointer3 s b o := by
  rw [fetch3, bankFixed_append, bankFixed_append]
  rfl

/-! ### The mode rules in closed form (R160 to R167) -/

section Rules

variable {index : State → Except FaultReg Word} (s : State) {i : Word} (w : Width) (op : BitVec 24)

theorem modeDp_eq : modeDp s w op = .ok (directDataAt s (directOffset s (operand8 op))) := by
  rw [modeDp, dpAddr_eq, ofNat_op8, directData_eq]

theorem directIndexed_of_ok (h : index s = .ok i) :
    directIndexed index s w op = .ok (directDataAt s (directOffset s (operand8 op + i))) := by
  simp only [directIndexed, h, dpAddr_eq, ofNat_op8_add, directData_eq]

theorem modeDpInd_eq :
    let o := directOffset s (operand8 op)
    modeDpInd s w op = .ok (throughPointer2 s (db s) o (nextOffset s o) 0 (leavesPage s o)) := by
  simp only [modeDpInd, dpAddr_eq, ofNat_op8, directPointed_eq]

theorem modeDpXInd_of_ok (h : indexX s = .ok i) :
    let o := directOffset s (operand8 op + i)
    modeDpXInd s w op = .ok (throughPointer2 s (db s) o (nextOffset s o) 0 (leavesPage s o)) := by
  simp only [modeDpXInd, h, dpAddr_eq, ofNat_op8_add, directPointed_eq]

theorem modeDpIndY_of_ok (h : indexY s = .ok i) :
    let o := directOffset s (operand8 op)
    modeDpIndY s w op = .ok (throughPointer2 s (db s) o (nextOffset s o) i
      (leavesPage s o || leavesBank (pointer2 s (db s) o (nextOffset s o)) i)) := by
  simp only [modeDpIndY, h, dpAddr_eq, ofNat_op8, fetch2Direct_append, dpCross_append, bankCarry_word, bankCarry_one]
  rfl

theorem modeDpIndL_eq :
    let o := s.regD + operand8 op
    modeDpIndL s w op = .ok (throughPointer3 s o 0 (leavesPage s o)) := by
  simp only [modeDpIndL, dpLong_eq, ofNat_op8, fetch3_append, dpCross_append, bankCarry_one, throughPointer3,
    add_zero_index]

theorem modeDpIndLY_of_ok (h : indexY s = .ok i) :
    let o := s.regD + operand8 op
    modeDpIndLY s w op = .ok (throughPointer3 s o i
      (leavesPage s o || leavesBank ((pointer3 s (db s) o).setWidth 16) i)) := by
  simp only [modeDpIndLY, h, dpLong_eq, ofNat_op8, fetch3_append, dpCross_append, bankCarry_word, bankCarry_one, offOf,
    ← BitVec.setWidth_eq_extractLsb' (show 16 ≤ 24 by decide)]
  rfl

end Rules

/-- Settles O26: each rule's offset is a 16-bit sum, or a sum in the page of `D` under page wrap, beside the direct
bank. -/
theorem directDataModesResolve : Obligations.DirectDataModesResolve := by
  intro s ws op hs w
  exact ⟨exec_resolve_eq_resolved (t := .dp) hs (modeDp_eq s w op),
    indexedAt_of_indexX (t := .dpX) hs (by decide) fun _ => directIndexed_of_ok s w op,
    indexedAt_of_indexY (t := .dpY) hs (by decide) fun _ => directIndexed_of_ok s w op⟩

/-- Settles O27: the pointer pair is at an offset and its `dpnext` successor; what it points to is one 24-bit sum. -/
theorem directIndirectModesResolve : Obligations.DirectIndirectModesResolve := by
  intro s ws op hs w o
  exact ⟨exec_resolve_eq_resolved (t := .dpInd) hs (modeDpInd_eq s w op),
    indexedAt_of_indexX (t := .dpXInd) hs (by decide) fun _ => modeDpXInd_of_ok s w op,
    indexedAt_of_indexY (t := .dpIndY) hs (by decide) fun _ => modeDpIndY_of_ok s w op,
    TableRow.resolveDpInd ws op, TableRow.resolveDpXInd ws op, TableRow.resolveDpIndY ws op⟩

/-- Settles O28: the three pointer bytes are at 16-bit sums beside the direct bank, and the pointer is the whole
address. -/
theorem directLongModesResolve : Obligations.DirectLongModesResolve := by
  intro s ws op hs w o
  exact ⟨exec_resolve_eq_resolved (t := .dpIndL) hs (modeDpIndL_eq s w op),
    indexedAt_of_indexY (t := .dpIndLY) hs (by decide) fun _ => modeDpIndLY_of_ok s w op⟩

/-! ### The page of a pointer (R159, R168) -/

/-- The tags whose pointer is a direct pair of bytes. -/
def tagsWithDirectPair : List ModeTag := [.dpInd, .dpXInd, .dpIndY]

/-- The pointer value of these tags is the pair read at the pointer address, whether or not an index is added. -/
theorem pv_of_directPair {t : ModeTag} {s : State} {w : Width} {op : BitVec 24} {r : ModeResult}
    (ht : t ∈ tagsWithDirectPair) (h : ruleOf t s w op = .ok r) : r.pv = (fetch2Direct s r.pa).setWidth 24 := by
  cases t with
  | dpInd => cases h; rfl
  | dpXInd =>
    simp only [ruleOf, modeDpXInd] at h
    split at h <;> cases h
    rfl
  | dpIndY =>
    simp only [ruleOf, modeDpIndY] at h
    split at h <;> cases h
    rfl
  | _ => exact absurd ht (by decide)

theorem fetch2Direct_of_wraps {s : State} (h : wraps s = true) (pa : Addr) :
    fetch2Direct s pa = memRead s (pa.extractLsb' 8 16 ++ (pa.setWidth 8 + 1#8)) ++ memRead s pa := by
  rw [fetch2Direct, dpNext, pageWraps_eq_wraps, if_pos h, pageFixed_eq_append]
  rfl

theorem pv_of_wraps {t : ModeTag} {ws : WSel} {op : BitVec 24} {s u : State} (hs : s.Running) (hu : u.Running)
    (hwraps : wraps s = true) (ht : t ∈ tagsWithDirectPair) (h : exec (resolveInstr t ws op) s = .next u) :
    u.latch.pv.setWidth 16 =
      memRead s (u.latch.pa.extractLsb' 8 16 ++ (u.latch.pa.setWidth 8 + 1#8)) ++ memRead s u.latch.pa := by
  obtain ⟨r, hr, hlatch⟩ := latch_of_completed hs hu h
  have hpv : u.latch.pv = (fetch2Direct s u.latch.pa).setWidth 24 := hlatch ▸ pv_of_directPair ht hr
  rw [hpv, BitVec.setWidth_setWidth_of_le _ (by decide), BitVec.setWidth_eq, fetch2Direct_of_wraps hwraps]

/-- Settles O32: under page wrap the successor of the low byte is taken by page-fixed addition. -/
theorem wrappedPointerStaysInItsPage : Obligations.WrappedPointerStaysInItsPage := by
  rintro s t ws op i hs ht hwraps (rfl | rfl | rfl) h
  · exact pv_of_wraps (t := .dpInd) hs ht hwraps (by decide) h
  · exact pv_of_wraps (t := .dpXInd) hs ht hwraps (by decide) h
  · exact pv_of_wraps (t := .dpIndY) hs ht hwraps (by decide) h

end Sys2Proof.Machine

/-! PROOFS: the stack-relative, implicit and immediate modes (R170 to R178). A stack address is a 16-bit sum in bank 0x00,
so each mode rule has a closed form at a defined `S`, and raises the fault of `S` before it reads `Y` (R213). -/

namespace Sys2Proof.Machine

open Claims

/-! ### The stack-relative mode rules in closed form (R172, R173, R213) -/

/-- Neither byte of a bank-fixed pointer pair leaves the bank of the pointer (R136). -/
theorem fetch2Fixed_append (s : State) (b : Byte) (o : Word) : fetch2Fixed s (b ++ o) = pointer2 s b o (o + 1) := by
  rw [fetch2Fixed, bankFixed_append]
  rfl

section Stack

variable {s : State} {v i : Word} {f : FaultReg} (w : Width) (op : BitVec 24)

theorem stackAddr_of_none (hS : s.regS = none) : stackAddr s op = .error (undefinedRegister .s) := by
  rw [stackAddr, hS]
  rfl

theorem stackAddr_of_some (hS : s.regS = some v) : stackAddr s op = .ok (0x00#8 ++ (v + operand8 op)) := by
  simp only [stackAddr, hS, definedValue, a24, bankFixed_append, ofNat_op8]
  rfl

theorem modeSr_of_none (hS : s.regS = none) : modeSr s w op = .error (undefinedRegister .s) := by
  rw [modeSr, stackAddr_of_none op hS]

theorem modeSr_of_some (hS : s.regS = some v) : modeSr s w op =
    .ok { kind := .data, ea := 0x00#8 ++ (v + operand8 op), ea2 := 0x00#8 ++ (v + operand8 op + 1), len := 1,
          cross := false } := by
  simp only [modeSr, stackAddr_of_some op hS, bankFixed_append]
  rfl

theorem modeSrIndY_of_ok (hS : s.regS = some v) (hY : indexY s = .ok i) :
    let o := v + operand8 op
    modeSrIndY s w op = .ok (throughPointer2 s 0x00 o (o + 1) i (leavesBank (pointer2 s 0x00 o (o + 1)) i)) := by
  simp only [modeSrIndY, stackAddr_of_some op hS, hY, fetch2Fixed_append, bankCarry_word, bankCarry_one]
  rfl

/-- With a value in `S`, what the read of `Y` raises is what the rule raises. -/
theorem modeSrIndY_of_indexY_error (hS : s.regS = some v) (hY : indexY s = .error f) :
    modeSrIndY s w op = .error f := by
  simp only [modeSrIndY, stackAddr_of_some op hS, hY]

end Stack

/-- Settles O29: `S` is read first; at a value of `S` the offset of the data or of the pointer pair is a 16-bit sum
beside bank 0x00, and only then `Y` is read. -/
theorem stackModesResolve : Obligations.StackModesResolve := by
  intro s ws op hs w
  refine ⟨fun hS => ⟨?_, exec_resolveSrIndY_of_stack_undefined hs hS ws op⟩, fun v hS => ⟨?_, ?_⟩⟩
  · exact exec_resolve_of_error (t := .sr) hs (modeSr_of_none w op hS)
  · exact exec_resolve_eq_resolved (t := .sr) hs (modeSr_of_some w op hS)
  · exact indexedAt_of_ruleOf (t := .srIndY) (r := .y) hs (fun _ => modeSrIndY_of_ok w op hS)
      fun _ => modeSrIndY_of_indexY_error w op hS

/-! ### Immediate operands (R177, R178) -/

theorem setWidth_op8 (op : BitVec 24) : (op8 op).setWidth 16 = operand8 op := by
  rw [← ofNat_op8, BitVec.ofNat_toNat]

theorem modeImm_byte (s : State) (op : BitVec 24) :
    modeImm s .byte op = .ok { kind := .imm, imm := operand8 op, len := 1, cross := false } := by
  rw [← setWidth_op8]
  rfl

theorem modeImm_word (s : State) (op : BitVec 24) :
    modeImm s .word op = .ok { kind := .imm, imm := operand16 op, len := 2, cross := false } := by
  rw [← op16_eq_operand16]
  rfl

theorem exec_resolveImm_of_ok {s : State} {ws : WSel} {op : BitVec 24} {w : Width} {r : ModeResult} (hs : s.Running)
    (hw : widthOf s ws = w) (h : modeImm s w op = .ok r) :
    exec (.resolveImm ws op) s = .next (resolved s .imm w r) := by
  subst hw
  exact exec_resolve_eq_resolved (t := .imm) hs h

/-- Settles O30: the implicit rule is a constant, and the immediate rule has one case for each width. -/
theorem implicitAndImmediateResolve : Obligations.ImplicitAndImmediateResolve := by
  intro s ws op hs
  refine ⟨?_, fun hw => ?_, fun hw => ?_⟩
  · exact exec_resolve_eq_resolved (t := .imp) hs rfl
  · exact exec_resolveImm_of_ok hs hw (modeImm_byte s op)
  · exact exec_resolveImm_of_ok hs hw (modeImm_word s op)

end Sys2Proof.Machine

/-! PROOFS: the cycle counter (R188, R189). A completed `RESOLVE` charges the cost its latch shows, `RESET` clears the
counter, and every other effect of a command keeps it. -/

namespace Sys2Proof.Machine

open Claims

/-! ### The updates that keep the counter -/

@[simp] theorem writeE_cyc (s : State) (b : Bool) : (writeE s b).cyc = s.cyc := by
  unfold writeE
  split <;> rfl

@[simp] theorem storeReg_cyc (s : State) (r : Reg) (v : Word) : (storeReg s r v).cyc = s.cyc := by
  cases r with
  | e => exact writeE_cyc s _
  | a | x | y | s | d | dbr | pbr | pc | m | xf | cyc => rfl

@[simp] theorem writeData_cyc (s : State) (w : Width) (lo hi : Addr) (v : Word) :
    (writeData s w lo hi v).cyc = s.cyc := by
  cases w <;> rfl

/-! ### What a command does to the counter -/

theorem charge_cyc_toNat (s : State) (n : BitVec 16) :
    (s.charge n).cyc.toNat = (s.cyc.toNat + n.toNat) % 2 ^ 64 := by
  rw [charge_cyc, BitVec.toNat_add, BitVec.toNat_setWidth_of_le (by decide)]

theorem isResolve_resolveInstr (t : ModeTag) (ws : WSel) (op : BitVec 24) :
    isResolve (resolveInstr t ws op) = true := by
  cases t <;> rfl

theorem Effect.cyc_eq {i : Instr} {s t : State} (hresolve : isResolve i = false) (hreset : i ≠ .reset)
    (heffect : Effect i s t) : t.cyc = s.cyc := by
  cases heffect with
  | reset hi => exact absurd hi hreset
  | resolved tag ws op _ _ hi =>
    rw [hi, isResolve_resolveInstr] at hresolve
    cases hresolve
  | storedReg r v => exact storeReg_cyc s r v
  | storedData w lo hi v => exact writeData_cyc s w lo hi v
  | ignored | raised | responded | committed => rfl

/-- A `RESOLVE` completes and charges the cost its latch shows (R188), or faults and charges nothing (R189). -/
theorem resolve_charges_or_faults {t : ModeTag} {ws : WSel} {op : BitVec 24} {s u : State} (hs : s.Running)
    (h : exec (resolveInstr t ws op) s = .next u) :
    (u.Running ∧ u.cyc = (s.charge u.latch.cost).cyc) ∨ (¬u.Running ∧ u.cyc = s.cyc) := by
  cases hr : ruleOf t s (widthOf s ws) op with
  | error f =>
    rw [exec_resolve_of_error hs hr] at h
    cases h
    exact .inr ⟨code_ne_none_of_ruleOf_error hr, rfl⟩
  | ok r =>
    rw [exec_resolve_of_ok hs hr] at h
    cases h
    exact .inl ⟨hs, rfl⟩

/-- Settles O35: a `RESOLVE` charges or faults, `RESET` starts from the power-on counter, and no other effect of a command
reaches the counter. -/
theorem onlyResolveChargesTheCounter : Obligations.OnlyResolveChargesTheCounter := by
  intro s u i hs h
  refine ⟨fun hi hrun => ?_, fun hi hfaulted => ?_, ?_, fun hi hreset => (exec_effect h).cyc_eq hi hreset⟩
  · obtain ⟨t, ws, op, rfl⟩ := exists_resolveInstr hi
    obtain ⟨-, hcyc⟩ := (resolve_charges_or_faults hs h).resolve_right fun hfaulted => hfaulted.1 hrun
    rw [hcyc, charge_cyc_toNat]
  · obtain ⟨t, ws, op, rfl⟩ := exists_resolveInstr hi
    exact ((resolve_charges_or_faults hs h).resolve_left fun hcompleted => hfaulted hcompleted.1).2
  · rintro rfl
    cases h
    exact applyReset_cyc s

end Sys2Proof.Machine

/-! PROOFS: the result latch and the program counter (R200 to R206). `LOAD_EA`, `STORE_EA` and `COMMIT_PC` by the kind
of the latch, and what the other commands leave of the latch and of `PBR`. -/

namespace Sys2Proof.Machine

open Claims Laws

/-! ### `LOAD_EA` (R200) -/

theorem exec_loadEa_imm {s : State} (hs : s.Running) (hkind : s.latch.kind = .imm) :
    exec .loadEa s = .next (s.respond (s.latch.imm.setWidth 64)) := by
  change whenRunning s _ = _
  rw [whenRunning_of_running hs, hkind]

theorem exec_loadEa_mismatch {s : State} {k : ResultKind} (hs : s.Running) (hkind : s.latch.kind = k)
    (hdata : k ≠ .data) (himm : k ≠ .imm) : exec .loadEa s = .next (s.raise (resultKindMismatch k)) := by
  change whenRunning s _ = _
  rw [whenRunning_of_running hs, hkind]
  cases k with
  | data => exact absurd rfl hdata
  | imm => exact absurd rfl himm
  | invalid | none | jump => rfl

theorem Latch.width_eq_byte {l : Latch} : l.width = .byte ↔ l.w ≠ 2 := by
  simp [Latch.width]

theorem exec_loadEa_byte {s : State} (hs : s.Running) (hkind : s.latch.kind = .data) (hw : s.latch.w ≠ 2) :
    exec .loadEa s = .next (s.respond ((memRead s s.latch.ea).setWidth 64)) := by
  have hdata : readData s s.latch.width s.latch.ea s.latch.ea2 = (memRead s s.latch.ea).setWidth 16 := by
    rw [Latch.width_eq_byte.2 hw]; rfl
  rw [exec_loadEa_data hs hkind hdata, BitVec.setWidth_setWidth (by decide)]

theorem exec_loadEa_word {s : State} (hs : s.Running) (hkind : s.latch.kind = .data) (hw : s.latch.w = 2) :
    exec .loadEa s = .next (s.respond ((memRead s s.latch.ea2 ++ memRead s s.latch.ea).setWidth 64)) := by
  refine exec_loadEa_data hs hkind ?_
  rw [Latch.width_eq_word.2 hw]
  rfl

/-- Settles O21: a data latch reads memory at the addresses it holds, an immediate one answers its value, and each other
kind is refused. -/
theorem loadEaReturnsTheOperand : Obligations.LoadEaReturnsTheOperand := fun _ hs =>
  ⟨exec_loadEa_byte hs, exec_loadEa_word hs, exec_loadEa_imm hs,
    fun hkind => exec_loadEa_mismatch hs hkind nofun nofun, fun hkind => exec_loadEa_mismatch hs hkind nofun nofun,
    fun hkind => exec_loadEa_mismatch hs hkind nofun nofun, TableRow.loadEa⟩

/-! ### `STORE_EA` (R202) -/

theorem exec_storeEa_mismatch {s : State} {k : ResultKind} (hs : s.Running) (hkind : s.latch.kind = k)
    (hdata : k ≠ .data) (v : Word) : exec (.storeEa v) s = .next (s.raise (resultKindMismatch k)) := by
  subst hkind
  change whenRunning s _ = _
  rw [whenRunning_of_running hs, if_pos hdata]

theorem exec_storeEa_byte_of_lt {s : State} {v : Word} (hs : s.Running) (hkind : s.latch.kind = .data)
    (hw : s.latch.w = 1) (hv : v.toNat < 0x100) :
    exec (.storeEa v) s = .next ((writeData s .byte s.latch.ea s.latch.ea2 v).respond 0) := by
  have hfits : fitsIn v 8 = true := fitsIn_iff.2 hv
  have hwidth : s.latch.width = .byte := Latch.width_eq_byte.2 (by simp [hw])
  change whenRunning s _ = _
  rw [whenRunning_of_running hs, if_neg (not_not.2 hkind), if_neg (by simp [hfits]), hwidth]

theorem exec_storeEa_byte_of_lowestFrom {s : State} {v : Word} {k : Nat} (hs : s.Running)
    (hkind : s.latch.kind = .data) (hw : s.latch.w = 1) (hk : LowestFrom v 8 k) :
    exec (.storeEa v) s = .next (s.raise ⟨.reservedBitsSet, BitVec.ofNat 8 (40 + k)⟩) := by
  obtain ⟨hn, -, hset, hlow⟩ := hk
  change whenRunning s _ = _
  rw [whenRunning_of_running hs, if_neg (not_not.2 hkind), if_pos ⟨hw, fitsIn_eq_false hn hset⟩,
    dataRangeFault_eq hn hset hlow]

/-- Settles O22: the kind check, the range check at width 1, then one or two bytes at the latch's addresses. -/
theorem storeEaWritesTheOperand : Obligations.StoreEaWritesTheOperand := by
  intro s v hs hm
  refine ⟨fun hkind hw hv => ?_, fun hkind hw => ?_, fun hkind hw k hk => ?_, fun hkind => ?_, fun hkind => ?_,
    fun hkind => ?_, fun hkind => ?_⟩
  · exact exists_next_of_stored_byte hm (exec_storeEa_byte_of_lt hs hkind hw hv)
  · obtain ⟨hframe, hwf, hread⟩ :=
      writeData_respond_spec (w := .word) (lo := s.latch.ea) (hi := s.latch.ea2) (v := v) hm rfl
    exact ⟨_, exec_storeEa_word hs hkind hw v, hframe, hwf, by simpa using hread⟩
  · exact exec_storeEa_byte_of_lowestFrom hs hkind hw hk
  all_goals exact exec_storeEa_mismatch hs hkind nofun v

/-! ### `COMMIT_PC` (R205) -/

theorem exec_commitPc_jump {s : State} (hs : s.Running) (hkind : s.latch.kind = .jump) :
    exec .commitPc s = .next (commitTo s (s.latch.ea.setWidth 16)) := by
  change whenRunning s _ = _
  rw [whenRunning_of_running hs, hkind, BitVec.setWidth_eq_extractLsb' (show 16 ≤ 24 by decide)]
  rfl

theorem exec_commitPc_invalid {s : State} (hs : s.Running) (hkind : s.latch.kind = .invalid) :
    exec .commitPc s = .next (s.raise (resultKindMismatch .invalid)) := by
  change whenRunning s _ = _
  rw [whenRunning_of_running hs, hkind]

/-- One opcode byte and `n` operand bytes, as one sum modulo 0x10000. -/
theorem add_one_add_setWidth (p : Word) (n : BitVec 2) :
    p + 1 + n.setWidth 16 = BitVec.ofNat 16 (p.toNat + 1 + n.toNat) := by
  apply BitVec.eq_of_toNat_eq
  rw [BitVec.toNat_add, BitVec.toNat_add, BitVec.toNat_setWidth_of_le (show 2 ≤ 16 by decide), BitVec.toNat_ofNat,
    Nat.mod_add_mod]
  rfl

theorem exec_commitPc_advance {s : State} {p : Word} (hs : s.Running)
    (hkind : s.latch.kind = .none ∨ s.latch.kind = .imm ∨ s.latch.kind = .data) (hpc : s.pc = some p) :
    exec .commitPc s = .next (commitTo s (BitVec.ofNat 16 (p.toNat + 1 + s.latch.len.toNat))) := by
  change whenRunning s _ = _
  rw [whenRunning_of_running hs, ← add_one_add_setWidth, hpc]
  rcases hkind with hkind | hkind | hkind <;> rw [hkind] <;> rfl

theorem exec_commitPc_undefined {s : State} (hs : s.Running)
    (hkind : s.latch.kind = .none ∨ s.latch.kind = .imm ∨ s.latch.kind = .data) (hpc : s.pc = none) :
    exec .commitPc s = .next (s.raise (undefinedRegister .pc)) := by
  change whenRunning s _ = _
  rw [whenRunning_of_running hs, hpc]
  rcases hkind with hkind | hkind | hkind <;> rw [hkind] <;> rfl

/-- Settles O23: the four ways a `COMMIT_PC` ends, by the kind of the latch and, where `PC` is read, by its mark. -/
theorem commitPcAdvancesOrJumps : Obligations.CommitPcAdvancesOrJumps := fun _ hs =>
  ⟨exec_commitPc_jump hs, fun _ => exec_commitPc_advance hs, exec_commitPc_undefined hs, exec_commitPc_invalid hs⟩

/-! ### The latch under the other commands (R204) -/

theorem Effect.latch_eq {i : Instr} {s t : State} (hresolve : isResolve i = false) (hreset : i ≠ .reset)
    (hcommit : i ≠ .commitPc) (heffect : Effect i s t) : t.latch = s.latch := by
  cases heffect with
  | reset hi => exact absurd hi hreset
  | committed _ _ hi => exact absurd hi hcommit
  | resolved tag ws op _ _ hi =>
    rw [hi, isResolve_resolveInstr] at hresolve
    cases hresolve
  | storedReg r v => exact storeReg_latch s r v
  | storedData w lo hi v => exact writeData_latch s w lo hi v
  | ignored | raised | responded => rfl

/-- A `COMMIT_PC` completes, or leaves a recorded fault and the latch it found. -/
theorem commitPc_commits_or_faults {s t : State} (h : exec .commitPc s = .next t) :
    (s.Running ∧ ∃ v, t = commitTo s v) ∨ (¬t.Running ∧ t.latch = s.latch) := by
  by_cases hs : s.Running
  · cases hkind : s.latch.kind with
    | invalid =>
      rw [exec_commitPc_invalid hs hkind] at h
      cases h
      exact .inr ⟨FaultCode.noConfusion, rfl⟩
    | jump =>
      rw [exec_commitPc_jump hs hkind] at h
      cases h
      exact .inl ⟨hs, _, rfl⟩
    | none | imm | data =>
      cases hpc : s.pc with
      | none =>
        rw [exec_commitPc_undefined hs (by simp [hkind]) hpc] at h
        cases h
        exact .inr ⟨FaultCode.noConfusion, rfl⟩
      | some p =>
        rw [exec_commitPc_advance hs (by simp [hkind]) hpc] at h
        cases h
        exact .inl ⟨hs, _, rfl⟩
  · rcases whenRunning_cases h with ⟨hrun, -⟩ | ⟨-, rfl⟩
    · exact absurd hrun hs
    · exact .inr ⟨hs, rfl⟩

/-- Settles O36: no effect of the other commands reaches the latch, and a `COMMIT_PC` empties it or faults. -/
theorem latchSurvivesOtherCommands : Obligations.LatchSurvivesOtherCommands := by
  refine fun s t i h hresolve hreset =>
    ⟨fun hcommit => (exec_effect h).latch_eq hresolve hreset hcommit, ?_, ?_⟩
  · rintro rfl hrun
    obtain ⟨-, v, rfl⟩ := (commitPc_commits_or_faults h).resolve_right fun hfaulted => hfaulted.1 hrun
    rfl
  · rintro rfl hfaulted
    rcases commitPc_commits_or_faults h with ⟨hs, v, rfl⟩ | ⟨-, hlatch⟩
    · exact absurd hs hfaulted
    · exact hlatch

/-! ### The program bank (R20, R206) -/

@[simp] theorem writeE_pbr (s : State) (b : Bool) : (writeE s b).pbr = s.pbr := by
  unfold writeE
  split <;> rfl

theorem storeReg_pbr_of_ne (s : State) {r : Reg} (hr : r ≠ .pbr) (v : Word) : (storeReg s r v).pbr = s.pbr := by
  cases r with
  | pbr => exact absurd rfl hr
  | e => exact writeE_pbr s _
  | a | x | y | s | d | dbr | pc | m | xf | cyc => rfl

@[simp] theorem writeData_pbr (s : State) (w : Width) (lo hi : Addr) (v : Word) :
    (writeData s w lo hi v).pbr = s.pbr := by
  cases w <;> rfl

theorem Effect.writes_pbr_of_ne {i : Instr} {s t : State} (heffect : Effect i s t) (hne : t.pbr ≠ s.pbr) :
    i = .reset ∨ ∃ v, i = .writeReg .pbr v := by
  cases heffect with
  | reset hi => exact .inl hi
  | storedReg r v _ hi =>
    obtain rfl : r = .pbr := not_not.1 fun hr => hne (storeReg_pbr_of_ne s hr v)
    exact .inr ⟨v, hi⟩
  | storedData w lo hi v => exact absurd (writeData_pbr s w lo hi v) hne
  | ignored | raised | responded | resolved | committed => exact absurd rfl hne

/-- Settles O34: an idle step and a rejected word keep `PBR`, and of the effects of a command only two reach it. -/
theorem onlyWriteRegAndResetChangePbr : Obligations.OnlyWriteRegAndResetChangePbr := by
  intro s t h hne
  rcases step_cases h with ⟨-, rfl⟩ | ⟨w, rest, i, hcons, hdecode, hexec⟩ | ⟨w, rest, f, -, -, hreject⟩
  · exact absurd rfl hne
  · exact ⟨w, rest, i, hcons, hdecode, (exec_effect hexec).writes_pbr_of_ne hne⟩
  · rcases rejectWord_cases hreject with ⟨-, rfl⟩ | ⟨-, rfl⟩ <;> exact absurd rfl hne

end Sys2Proof.Machine

/-! PROOFS: the fault register (R211 to R215). A fault is recorded alone, it is one the table lists for its command, and
while it stands every command but `RESET` is ignored. -/

namespace Sys2Proof.Machine

open Claims

/-! ### A fault changes nothing else (R214) -/

@[simp] theorem writeE_fault (s : State) (b : Bool) : (writeE s b).fault = s.fault := by
  unfold writeE
  split <;> rfl

@[simp] theorem storeReg_fault (s : State) (r : Reg) (v : Word) : (storeReg s r v).fault = s.fault := by
  cases r with
  | e => exact writeE_fault s _
  | a | x | y | s | d | dbr | pbr | pc | m | xf | cyc => rfl

@[simp] theorem writeData_fault (s : State) (w : Width) (lo hi : Addr) (v : Word) :
    (writeData s w lo hi v).fault = s.fault := by
  cases w <;> rfl

theorem storeReg_running {s : State} (hs : s.Running) (r : Reg) (v : Word) : (storeReg s r v).Running := by
  rwa [State.Running, storeReg_fault]

theorem writeData_running {s : State} (hs : s.Running) (w : Width) (lo hi : Addr) (v : Word) :
    (writeData s w lo hi v).Running := by
  rwa [State.Running, writeData_fault]

/-- Every effect but a recorded fault leaves a running state running. -/
theorem Effect.running_or_raised {i : Instr} {s t : State} (hs : s.Running) (heffect : Effect i s t) :
    t.Running ∨ t = s.raise t.fault := by
  cases heffect with
  | ignored hfaulted => exact absurd hs hfaulted
  | raised f => exact .inr rfl
  | reset => exact .inl rfl
  | storedReg r v => exact .inl (storeReg_running hs r v)
  | storedData w lo hi v => exact .inl (writeData_running hs w lo hi v)
  | responded | resolved | committed => exact .inl hs

/-- Settles O38: the one effect that leaves a running state with a fault is to record it. -/
theorem faultsArePrecise : Obligations.FaultsArePrecise := fun _ _ _ hs h hfaulted =>
  ((exec_effect h).running_or_raised hs).resolve_left hfaulted

/-! ### Which faults a command records (R212) -/

theorem modeSr_error {s : State} {w : Width} {op : BitVec 24} {f : FaultReg} (h : modeSr s w op = .error f) :
    f = undefinedRegister .s := by
  cases hS : s.regS with
  | none =>
    rw [modeSr_of_none w op hS] at h
    exact (Except.error.inj h).symm
  | some v =>
    rw [modeSr_of_some w op hS] at h
    cases h

/-- The mode rules without a register that may hold no value raise nothing, `SR` reads `S` alone, and the others read an
index register. -/
theorem ruleOf_error_mem_faultsOf {t : ModeTag} {s : State} {w : Width} {op : BitVec 24} {f : FaultReg}
    (h : ruleOf t s w op = .error f) (ws : WSel) : f.code ∈ faultsOf (resolveInstr t ws op) := by
  cases t with
  | imp | abs | absJmp | absInd | absL | dp | dpInd | dpIndL => cases h
  | imm => cases w <;> cases h
  | sr =>
    rw [modeSr_error (w := w) h]
    exact List.mem_singleton_self _
  | absX | absY | absXInd | absLX | dpX | dpY | dpXInd | dpIndY | dpIndLY | srIndY =>
    exact List.mem_pair.2 (ruleOf_error h)

/-- A command that started in a running state completes, or records a fault that its row of the table lists. -/
theorem exec_running_or_listed {i : Instr} {s t : State} (hs : s.Running) (h : exec i s = .next t) :
    t.Running ∨ t.fault.code ∈ faultsOf i := by
  have gate : ∀ {r : Result}, whenRunning s r = .next t → r = .next t := fun h =>
    (whenRunning_of_running hs).symm.trans h
  induction i using Instr.casesByCommand with
  | reset =>
    cases h
    exact .inl rfl
  | readReg r =>
    replace h := gate h
    split at h <;> cases h
    · next hf =>
      rw [readReg_error hf]
      exact .inr (List.mem_singleton_self _)
    · exact .inl hs
  | writeReg r v =>
    replace h := gate h
    split at h
    · cases h
      exact .inr List.mem_cons_self
    · split at h <;> cases h
      · exact .inl (storeReg_running hs r v)
      · exact .inr (List.mem_pair.2 (.inr rfl))
  | readByte | readOperand =>
    cases gate h
    exact .inl hs
  | writeByte a v =>
    replace h := gate h
    split at h <;> cases h
    · exact .inl hs
    · exact .inr (List.mem_singleton_self _)
  | writeOperand a ws v =>
    replace h := gate h
    split at h <;> cases h
    · exact .inr (List.mem_singleton_self _)
    · exact .inl (writeData_running hs _ _ _ v)
  | resolve t ws op =>
    cases hr : ruleOf t s (widthOf s ws) op with
    | error f =>
      rw [exec_resolve_of_error hs hr] at h
      cases h
      exact .inr (ruleOf_error_mem_faultsOf hr ws)
    | ok r =>
      rw [exec_resolve_of_ok hs hr] at h
      cases h
      exact .inl hs
  | loadEa =>
    replace h := gate h
    split at h <;> cases h
    · exact .inl hs
    · exact .inl hs
    all_goals exact .inr (List.mem_singleton_self _)
  | storeEa v =>
    replace h := gate h
    split at h
    · cases h
      exact .inr List.mem_cons_self
    · split at h <;> cases h
      · exact .inr (List.mem_pair.2 (.inr rfl))
      · exact .inl (writeData_running hs _ _ _ v)
  | commitPc =>
    replace h := gate h
    split at h
    · cases h
      exact .inr List.mem_cons_self
    · cases h
      exact .inl hs
    all_goals
      split at h <;> cases h
      · next hf =>
        rw [(definedValue_error hf).2]
        exact .inr (List.mem_pair.2 (.inr rfl))
      · exact .inl hs

/-- Settles O39: each branch that records a fault records one of its command's row, those of the mode rules tag by
tag. -/
theorem commandsRaiseOnlyTheirFaults : Obligations.CommandsRaiseOnlyTheirFaults := fun _ _ _ =>
  exec_running_or_listed

/-! ### While a fault is recorded (R215, R33) -/

theorem Effect.eq_of_faulted {i : Instr} {s t : State} (hs : ¬s.Running) (hreset : i ≠ .reset)
    (heffect : Effect i s t) : t = s := by
  cases heffect with
  | ignored => rfl
  | reset hi => exact absurd hi hreset
  | raised _ hrun | responded _ hrun | storedReg _ _ hrun | storedData _ _ _ _ hrun | resolved _ _ _ _ hrun
  | committed _ hrun => exact absurd hrun hs

theorem exec_of_faulted {i : Instr} {s : State} (hs : ¬s.Running) (hreset : i ≠ .reset) : exec i s = .next s := by
  obtain ⟨t, h⟩ := exec_next i s
  rw [h, (exec_effect h).eq_of_faulted hs hreset]

/-- Settles O40: `RESET` is the only command that does not ask for a running state, one word alone decodes to it, and a
rejected word asks for a running state too. -/
theorem recordedFaultIgnoresCommands : Obligations.RecordedFaultIgnoresCommands := by
  refine fun s w rest hcons hs => ⟨fun hw => ?_, fun i => exec_of_faulted hs⟩
  rw [step_of_pending hcons]
  cases hdecode : decode w with
  | ok i =>
    refine exec_of_faulted hs ?_
    rintro rfl
    exact hw (encodeOfDecodeIsTheWord w .reset hdecode).symm
  | error f => exact whenRunning_of_faulted hs

end Sys2Proof.Machine

/-! PROOFS: reset and power-on (R231, R232). -/

namespace Sys2Proof.Machine

/-- Settles O1: `RESET` asks for no running state, and each of its values is that of power-on. -/
theorem resetCommandGivesResetValues : Obligations.ResetCommandGivesResetValues := fun _ => rfl

/-- The base case of the three invariants: no register that may hold no value holds one, and the latch is empty. -/
theorem powerOn_safe (p : Params) {m : Memory} (hm : m.wf = true) : (State.powerOn p m).Safe :=
  ⟨hm, fun _ => ⟨rfl, nofun, nofun, nofun⟩, Latch.invalid_ok⟩

/-- Settles O46: the state after reset is a state at power-on, with no cell of memory listed. -/
theorem powerOnStateIsSafe : Obligations.PowerOnStateIsSafe :=
  ⟨powerOn_safe Config.defaults reset_mem_wf, rfl, fun p _ hm => ⟨powerOn_safe p hm, rfl⟩⟩

end Sys2Proof.Machine
